-- ==== Sys2Proof/Word.lean ====
section
/-!
DEFINITION. The widths of B32CC (spec/00_scope.md R4, R6: every value is an unsigned integer of a stated
width, bit 0 the least significant).
-/

namespace Sys2Proof

/-- A register, a command word or the data of an accepted access: 32 bits (R4, R36). -/
abbrev Word := BitVec 32

/-- An output word of the converter, a checksum digit, a symbol the checksum engine steps: 5 bits (R13, R75). -/
abbrev Sym := BitVec 5

/-- A value of the checksum accumulator: 30 bits (R14). -/
abbrev Chk := BitVec 30

/-- A byte of the payload or the code of a prefix character: 8 bits (R9, R50). -/
abbrev Octet := BitVec 8

/-- The field `v[lo+len-1:lo]` of a word (R6). -/
abbrev field (v : Word) (lo len : Nat) : BitVec len := v.extractLsb' lo len

end Sys2Proof
end

