-- ==== Sys2Proof/Syntax.lean ====
section
/-!
DEFINITION. The commands (spec/30_encoding.md R51) and the operand forms (R49). Operands have the exact
widths of R50, so a command whose operand does not fit its form cannot be written down.
-/

namespace Sys2Proof

/-- The nine commands of the opcode table, one constructor per row (R51). -/
inductive Instr where
  /-- NOP: no operation (R63). -/
  | nop
  /-- INIT: start a new job (R64). -/
  | init
  /-- CVT_PUSH: append the value `v`; form `V24`, wider than a byte on purpose (R50, R54, R67). -/
  | cvtPush (v : BitVec 24)
  /-- CVT_FLUSH: end the conversion (R70, R71). -/
  | cvtFlush
  /-- CHK_STEP: step the five-bit value `v`; form `V5` (R77). -/
  | chkStep (v : Sym)
  /-- CHK_HI: step the high part of the character code `c`; form `C8` (R78). -/
  | chkHi (c : Octet)
  /-- CHK_LO: step the low part of the character code `c`; form `C8` (R79). -/
  | chkLo (c : Octet)
  /-- CHK_CREATE: compute and queue the six checksum digits (R81). -/
  | chkCreate
  /-- CHK_VERIFY: record whether the accumulator is 1 (R83). -/
  | chkVerify
deriving DecidableEq, Repr

/-- The four uses of the operand field (R49). -/
inductive OperandForm where
  /-- No operand. -/
  | z
  /-- A 24-bit value. -/
  | v24
  /-- A 5-bit value. -/
  | v5
  /-- An 8-bit character code. -/
  | c8
deriving DecidableEq, Repr

/-- The two fields of the one command format `CMD32` (R48). -/
structure Cmd32 where
  /-- `OP`, bits [31:24]. -/
  op : BitVec 8
  /-- `OPND`, bits [23:0]. -/
  opnd : BitVec 24
deriving DecidableEq, Repr

end Sys2Proof
end

