-- ==== Sys2Proof/WellFormed.lean ====
section
/-!
DEFINITION. Which words are commands: an assigned opcode, and every must-be-zero operand bit zero
(spec/30_encoding.md R49, R51, R53).
-/

namespace Sys2Proof

/-- The operand bits each form requires to be zero (R49). -/
def OperandForm.mustBeZero : OperandForm → BitVec 24
  | .z   => 0xFFFFFF#24
  | .v24 => 0x000000#24
  | .v5  => 0xFFFFE0#24
  | .c8  => 0xFFFF00#24

/-- The operand form of an assigned opcode; none for the values R53 lists as unassigned. -/
def opcodeForm (op : BitVec 8) : Option OperandForm :=
  if op = 0x00#8 then some .z
  else if op = 0x01#8 then some .z
  else if op = 0x10#8 then some .v24
  else if op = 0x11#8 then some .z
  else if op = 0x20#8 then some .v5
  else if op = 0x21#8 then some .c8
  else if op = 0x22#8 then some .c8
  else if op = 0x23#8 then some .z
  else if op = 0x24#8 then some .z
  else none

/-- The two checks of R53 on a word cut into its fields: the opcode is assigned, the must-be-zero bits are zero. -/
def Cmd32.wellFormed (c : Cmd32) : Bool :=
  match opcodeForm c.op with
  | none   => false
  | some f => c.opnd &&& f.mustBeZero == 0#24

/-- `OP` of a command (R51). -/
def Instr.opcode : Instr → BitVec 8
  | .nop       => 0x00#8
  | .init      => 0x01#8
  | .cvtPush _ => 0x10#8
  | .cvtFlush  => 0x11#8
  | .chkStep _ => 0x20#8
  | .chkHi _   => 0x21#8
  | .chkLo _   => 0x22#8
  | .chkCreate => 0x23#8
  | .chkVerify => 0x24#8

/-- `OPND` of a command: its operand zero-extended (R49, R50). -/
def Instr.operandField : Instr → BitVec 24
  | .cvtPush v => v
  | .chkStep v => v.setWidth 24
  | .chkHi c   => c.setWidth 24
  | .chkLo c   => c.setWidth 24
  | .nop | .init | .cvtFlush | .chkCreate | .chkVerify => 0#24

/-- The fields of a command. -/
def Instr.toCmd (i : Instr) : Cmd32 := ⟨i.opcode, i.operandField⟩

/-- A command is well formed when its fields pass the checks of R53. The operand widths of `Instr` already
grant it for every command (`Sys2Proof.Laws.WellFormed`). -/
def Instr.wellFormed (i : Instr) : Bool := i.toCmd.wellFormed

end Sys2Proof
end

