-- ==== Sys2Proof/Decode.lean ====
section
/-!
DEFINITION. Decoding a command word and encoding a command (spec/30_encoding.md R48 to R57). A command is
one whole 32-bit word written in one access (R56), bit `i` of the bus data being bit `i` of the word (R38),
so no byte order and no length arise.
-/

namespace Sys2Proof

/-- Why a word is ILLEGAL (R53). The block answers both with ILLEGAL_COMMAND; the names are the model's
(DESIGN CHOICE, safe: log entry 16). -/
inductive Illegal where
  /-- The opcode is none of R51's. -/
  | unassignedOpcode
  /-- The opcode is assigned and a must-be-zero operand bit is set. -/
  | mustBeZeroBitSet
deriving DecidableEq, Repr

/-- A row of R51's table: it selects a word when `(word & mask) == match`. -/
structure OpcodeRow where
  /-- `mask` of R51. -/
  mask : Word
  /-- `match` of R51. -/
  value : Word
  /-- The command with its operand taken from the word (R50). -/
  read : Word → Instr

/-- The row selects the word (R51). -/
def OpcodeRow.selects (r : OpcodeRow) (w : Word) : Bool := w &&& r.mask == r.value

/-- The opcode table (R51), in its order. -/
def opcodeTable : List OpcodeRow :=
  [ ⟨0xFFFFFFFF#32, 0x00000000#32, fun _ => .nop⟩,
    ⟨0xFFFFFFFF#32, 0x01000000#32, fun _ => .init⟩,
    ⟨0xFF000000#32, 0x10000000#32, fun w => .cvtPush (field w 0 24)⟩,
    ⟨0xFFFFFFFF#32, 0x11000000#32, fun _ => .cvtFlush⟩,
    ⟨0xFFFFFFE0#32, 0x20000000#32, fun w => .chkStep (field w 0 5)⟩,
    ⟨0xFFFFFF00#32, 0x21000000#32, fun w => .chkHi (field w 0 8)⟩,
    ⟨0xFFFFFF00#32, 0x22000000#32, fun w => .chkLo (field w 0 8)⟩,
    ⟨0xFFFFFFFF#32, 0x23000000#32, fun _ => .chkCreate⟩,
    ⟨0xFFFFFFFF#32, 0x24000000#32, fun _ => .chkVerify⟩ ]

/-- The fields of a word (R48). -/
def Cmd32.ofWord (w : Word) : Cmd32 := ⟨field w 24 8, field w 0 24⟩

/-- Which of R53's two kinds of illegal word a word that no row selects is. -/
def illegalKind (w : Word) : Illegal :=
  match opcodeForm (field w 24 8) with
  | none   => .unassignedOpcode
  | some _ => .mustBeZeroBitSet

/-- `Decode` of R52: the one command whose row selects the word, or ILLEGAL. -/
def decode (w : Word) : Except Illegal Instr :=
  match opcodeTable.find? (fun r => r.selects w) with
  | some r => .ok (r.read w)
  | none   => .error (illegalKind w)

/-- The word of a command, from the words of R57. -/
def encode : Instr → Word
  | .nop       => 0x00000000#32
  | .init      => 0x01000000#32
  | .cvtPush v => 0x10000000#32 ||| v.setWidth 32
  | .cvtFlush  => 0x11000000#32
  | .chkStep v => 0x20000000#32 ||| v.setWidth 32
  | .chkHi c   => 0x21000000#32 ||| c.setWidth 32
  | .chkLo c   => 0x22000000#32 ||| c.setWidth 32
  | .chkCreate => 0x23000000#32
  | .chkVerify => 0x24000000#32

/-- The command word whose low `nbits` bits are those of `w`, the bits above being zero. -/
def tableWord (nbits w : Nat) : Word := BitVec.ofNat 32 (w % 2 ^ nbits)

/-- The command the decoder reads from the word `w` of a row of the opcode table. -/
def decodeTableWord (nbits w : Nat) : Option Instr :=
  match decode (tableWord nbits w) with
  | .ok i    => some i
  | .error _ => none

end Sys2Proof
end

