-- ==== Sys2Proof/Config.lean ====
section
/-!
DEFINITION. The parameters of spec/00_scope.md R4, and the two the spec leaves open (R5) as constants
without a body: nothing can be proved about their value, so what is proved holds for every platform.
-/

namespace Sys2Proof.Config

/-- `FROM_BITS`: width of an input value (R4). -/
abbrev fromBits : Nat := 8

/-- `TO_BITS`: width of an output word (R4). -/
abbrev toBits : Nat := 5

/-- `OUTQ_DEPTH`: entries of the output queue (R4, R13). -/
abbrev outqDepth : Nat := 64

/-- `N_DIGITS`: checksum digits (R4). -/
abbrev nDigits : Nat := 6

/-- Size of the register window in bytes (R4, R34). -/
abbrev windowBytes : Nat := 64

/-- `BASE / 64`, open (R5, R35, I9). DESIGN CHOICE, safe: log entry 1. -/
opaque baseBlock : Nat

/-- `BASE`: the byte address of the register window, a multiple of 64 (R5, R35). -/
def base : Nat := windowBytes * baseBlock

/-- `BusErrorResponse`: a number standing for what the platform reports to the host about a refused access,
open (R5, R37, I10). DESIGN CHOICE, safe: log entry 3. -/
opaque busErrorResponse : Nat

end Sys2Proof.Config
end

