-- ==== Sys2Proof/Machine/State.lean ====
section
/-!
DEFINITION. The state of the block (spec/10_state.md section 1), the host's accesses and their answers
(spec/43_host_access.md), the reset state (R32), and the reasons a step could stop.
-/

namespace Sys2Proof.Machine

/-- The error codes ECODE can hold (R96); the values 6 to 15 are never produced, so the type has six values (I6). -/
inductive ECode where
  /-- 0: no error since INIT or reset. -/
  | none
  /-- 1: a CVT_PUSH operand bit above bit 7 is set (R100). -/
  | valueOutOfRange
  /-- 2: a strict flush found a leftover bit that is 1 (R101). -/
  | malformedPadding
  /-- 3: the word decodes to ILLEGAL (R102). -/
  | illegalCommand
  /-- 4: OUTQ lacks room for the words due (R103). -/
  | outqOverflow
  /-- 5: CVT_PUSH or CVT_FLUSH after the flush (R104). -/
  | sequence
deriving DecidableEq, Repr

/-- The registers of the window (R21). -/
inductive Reg where
  | id
  | ctrl
  | status
  | cmd
  | dout
  | cvtState
  | chkAcc
  | csum
  /-- GEN0 to GEN4 (R30). -/
  | gen (i : Fin 5)
  /-- The reserved offsets 0x34, 0x38 and 0x3C (R31). -/
  | reserved (i : Fin 3)
deriving DecidableEq, Repr

/-- The kind of an access (R87). -/
inductive AccessKind where
  | read
  | write
deriving DecidableEq, Repr

/-- One access of the host as R87 takes it. The address stands as its distance from BASE, which is open
(log entry 1): `off = addr - BASE`, negative or 64 and above when the address is outside the window. -/
structure Access where
  kind : AccessKind
  /-- `addr - BASE`. -/
  off : Int
  /-- The number of bytes the access asks for. -/
  size : Nat
  /-- The data of a 32-bit write; no rule reads it for another access (log entry 17). -/
  data : Word
deriving DecidableEq, Repr

/-- What reaches the block from outside: an access (R87), a reset between two accesses, a reset that cuts an
access off (R115). -/
inductive HostEvent where
  | access (a : Access)
  | reset
  | resetDuring (a : Access)
deriving DecidableEq, Repr

/-- What the host gets back for an access inside the window (R87). -/
inductive Reply where
  /-- The value of an accepted read. -/
  | data (v : Word)
  /-- An accepted write has completed. -/
  | ok
  /-- A refused access: the platform's report (R37, R107). -/
  | busError (report : Nat)
deriving DecidableEq, Repr

/-- A handled event: what the block answered, none where it does not answer, and ERR right after the event, which
says whether a command it wrote executed without error (R97, R118; log entry 6). -/
structure Handled where
  event : HostEvent
  reply : Option Reply
  err : Bool
deriving DecidableEq, Repr

/-- The state: the elements of R32, then the two fields of the model's own that carry the host interface. -/
structure State where
  /-- ACC: the converter's accumulator (R10). -/
  acc : BitVec 12
  /-- NBITS: the count of buffered bits (R11). -/
  nbits : BitVec 4
  /-- CVT_DONE: the converter has been flushed (R12). -/
  cvtDone : Bool
  /-- OUTQ: the output queue, its head first (R13). -/
  outq : List Sym
  /-- CHK_ACC: the checksum accumulator (R14). -/
  chkAcc : Chk
  /-- CSUM: the last created checksum (R15). -/
  csum : Chk
  /-- CHK_OK: the verdict of the last CHK_VERIFY (R16). -/
  chkOk : Bool
  /-- ERR: the sticky error flag (R17). -/
  err : Bool
  /-- ECODE: the first error's code (R17). -/
  ecode : ECode
  /-- PAD: padded or strict tail (R18). -/
  pad : Bool
  /-- CHAIN: converter words also step the checksum (R18). -/
  chain : Bool
  /-- The events not yet handled, in arrival order (R43). The model's own field: log entry 4. -/
  pending : List HostEvent
  /-- The handled events, the latest first. The model's own field: log entry 6. -/
  history : List Handled
deriving DecidableEq, Repr

/-- No step stops: every accepted access completes, a refused one is answered, and a command's error is
recorded in ERR and ECODE (R62, R87, R97). So there is no fault to raise (log entry 19). -/
inductive Fault where
deriving DecidableEq, Repr

/-- A command the model gives no meaning. -/
inductive Refusal where
  /-- Raised only by an arm of `exec` without a meaning; there is none. Safe: the machine stops. -/
  | notModelled (mnemonic : String)
deriving DecidableEq, Repr

/-- The outcome of a step of this machine. -/
abbrev Outcome := Host.Outcome State Fault Refusal

/-- The state after reset (R32, R115); nothing is pending and nothing has been handled (log entries 4, 6). -/
def State.reset : State where
  acc := 0#12
  nbits := 0#4
  cvtDone := false
  outq := []
  chkAcc := 1#30
  csum := 0#30
  chkOk := false
  err := false
  ecode := .none
  pad := true
  chain := false
  pending := []
  history := []

end Sys2Proof.Machine
end

