-- ==== Sys2Proof/Machine/Ops.lean ====
section
/-!
DEFINITION. The named operations on the state that the commands and the register accesses share: the output
queue (spec/10_state.md R13), recording an error (spec/60_exceptions.md R97), the polymod step
(spec/42_checksum.md R75) and emitting a word (spec/41_converter.md R69).
-/

namespace Sys2Proof.Machine

/-! ### Writing one element -/

/-- `ACC <- v`. -/
def State.setAcc (s : State) (v : BitVec 12) : State := { s with acc := v }

/-- `NBITS <- v`. -/
def State.setNbits (s : State) (v : BitVec 4) : State := { s with nbits := v }

/-- `CVT_DONE <- 1`. -/
def State.markFlushed (s : State) : State := { s with cvtDone := true }

/-- `OUTQ <- q`. -/
def State.setOutq (s : State) (q : List Sym) : State := { s with outq := q }

/-- `CHK_ACC <- c`. -/
def State.setChkAcc (s : State) (c : Chk) : State := { s with chkAcc := c }

/-- `CSUM <- c`. -/
def State.setCsum (s : State) (c : Chk) : State := { s with csum := c }

/-- `CHK_OK <- b`. -/
def State.setChkOk (s : State) (b : Bool) : State := { s with chkOk := b }

/-- `PAD <- p; CHAIN <- c` (R89). -/
def State.setCtrl (s : State) (p c : Bool) : State := { s with pad := p, chain := c }

/-- The next event leaves the stream of events. -/
def State.setPending (s : State) (es : List HostEvent) : State := { s with pending := es }

/-- The event `e` has been handled, with this state as its result, and answered with `r`. -/
def State.record (s : State) (e : HostEvent) (r : Option Reply) : State :=
  { s with history := ⟨e, r, s.err⟩ :: s.history }

/-! ### Errors (R97, R98) -/

/-- `raise Error(code)` as R97 records it: ERR and ECODE, and nothing else. -/
def State.raise (s : State) (code : ECode) : State := { s with err := true, ecode := code }

/-- Every CMD write but the exact INIT goes through this: while ERR is 1 it has no effect (R98). Standing in
the commands' meanings, the test comes before every other check, as R61 and R99 order them (log entry 8). -/
def State.obey (s : State) (command : State → State) : State := if s.err then s else command s

/-! ### The start of a job and reset (R64, R115) -/

/-- INIT: every element of R32 but PAD and CHAIN gets its reset value (R64). -/
def State.startJob (s : State) : State :=
  { s with
    acc := 0#12
    nbits := 0#4
    cvtDone := false
    outq := []
    chkAcc := 1#30
    csum := 0#30
    chkOk := false
    err := false
    ecode := .none }

/-- Reset: every element of R32 gets its reset value (R115). The events still to come and the record of those
handled are not the block's (log entry 13). -/
def State.resetBlock (s : State) : State :=
  { State.reset with pending := s.pending, history := s.history }

/-! ### The output queue (R13, R103) -/

/-- Free entries of OUTQ: `64 - len(OUTQ)` (R103). -/
def State.free (s : State) : Nat := Config.outqDepth - s.outq.length

/-- `OUTQ.push(w)` (R8). -/
def State.enqueue (s : State) (w : Sym) : State := s.setOutq (s.outq ++ [w])

/-- `OUTQ.push` of each value of a list, in order. -/
def State.enqueueAll (s : State) (ws : List Sym) : State := ws.foldl State.enqueue s

/-! ### The polymod step (R19, R75, R76) -/

/-- The generator constants GEN0 to GEN4 (R19). -/
def gen : Fin 5 → Chk
  | 0 => 0x3b6a57b2#30
  | 1 => 0x26508e6d#30
  | 2 => 0x1ea119fa#30
  | 3 => 0x3d4233dd#30
  | 4 => 0x2a1462b3#30

/-- XOR `GEN_i` into `chk` if bit `i` of `b` is 1 (R75, R76). -/
def xorGen (b : BitVec 5) (chk : Chk) (i : Fin 5) : Chk :=
  if b.getLsbD i.val then chk ^^^ gen i else chk

/-- `PolyStep` of R75. -/
def polyStep (chk : Chk) (v : Sym) : Chk :=
  let b : BitVec 5 := chk.extractLsb' 25 5
  let shifted : Chk := ((chk &&& 0x1FFFFFF#30) <<< 5) ^^^ v.setWidth 30
  ([0, 1, 2, 3, 4] : List (Fin 5)).foldl (xorGen b) shifted

/-- `PolyStep` through a sequence, in order (R82). -/
def polySteps (chk : Chk) (vs : List Sym) : Chk := vs.foldl polyStep chk

/-- `CHK_ACC <- PolyStep(CHK_ACC, v)`. -/
def State.stepChk (s : State) (v : Sym) : State := s.setChkAcc (polyStep s.chkAcc v)

/-! ### Emitting a word (R69) -/

/-- `Emit(w)`: queue the word and, with CHAIN = 1, step it (R69). -/
def State.emit (s : State) (w : Sym) : State :=
  let t := s.enqueue w
  if t.chain then t.stepChk w else t

end Sys2Proof.Machine
end

