-- ==== Sys2Proof/Machine/Operands.lean ====
section
/-!
DEFINITION. What the commands take from their operands and from ACC: the range check of CVT_PUSH, the two
halves of a prefix character, the words of the bit stream and the checksum digits (spec/41_converter.md,
spec/42_checksum.md).
-/

namespace Sys2Proof.Machine

/-- `v[23:8] != 0`: the value of a CVT_PUSH does not fit in 8 bits (R67, R100). -/
def exceedsByte (v : BitVec 24) : Bool := v.extractLsb' 8 16 != 0#16

/-- `((ACC << 8) | v) & 0xFFF`: eight more bits of the stream (R10, R67). -/
def shiftIn (acc : BitVec 12) (v : BitVec 24) : BitVec 12 := (acc <<< Config.fromBits) ||| v.setWidth 12

/-- `(NBITS + 8) div 5`: the words a push emits (R68). -/
def pushWords (nbits : BitVec 4) : Nat := (nbits.toNat + Config.fromBits) / Config.toBits

/-- `(ACC >> NBITS) & 31`: the top five of the buffered bits, `nbits` being the count after the decrement (R67). -/
def topWord (acc : BitVec 12) (nbits : BitVec 4) : Sym := ((acc >>> nbits.toNat) &&& 31#12).setWidth 5

/-- `(ACC << (5 - NBITS)) & 31`: the remaining bits left-aligned in a word, zero below (R70, R71). -/
def tailWord (acc : BitVec 12) (nbits : BitVec 4) : Sym :=
  ((acc <<< (Config.toBits - nbits.toNat)) &&& 31#12).setWidth 5

/-- `(NBITS > 0) ? 1 : 0`: the words a padded flush emits (R70). -/
def tailWords (nbits : BitVec 4) : Nat := if 0 < nbits.toNat then 1 else 0

/-- `NBITS >= 8 or ((ACC << (5 - NBITS)) & 31) != 0`: the tail a strict flush rejects (R71, R101). -/
def badTail (acc : BitVec 12) (nbits : BitVec 4) : Bool :=
  Config.fromBits ≤ nbits.toNat || tailWord acc nbits != 0#5

/-- `c >> 5`: the high part of a prefix character (R78). -/
def hiPart (c : Octet) : Sym := (c >>> 5).setWidth 5

/-- `c & 31`: the low part of a prefix character (R79). -/
def loPart (c : Octet) : Sym := (c &&& 31#8).setWidth 5

/-- Digit `i` of a checksum: `(CSUM >> (5 * (5 - i))) & 31` (R29, R81). -/
def digit (csum : Chk) (i : Nat) : Sym := ((csum >>> (5 * (5 - i))) &&& 31#30).setWidth 5

/-- The six digits, most significant first (R81). -/
def digits (csum : Chk) : List Sym := (List.range Config.nDigits).map (digit csum)

end Sys2Proof.Machine
end

