-- ==== Sys2Proof/Machine/Flags.lean ====
section
/-!
DEFINITION. The flags and how the registers show the state (spec/10_state.md R22 to R30,
spec/43_host_access.md R88 to R93).
-/

namespace Sys2Proof.Machine

/-- The four-bit number of an error code (R96). -/
def ECode.code : ECode → BitVec 4
  | .none             => 0#4
  | .valueOutOfRange  => 1#4
  | .malformedPadding => 2#4
  | .illegalCommand   => 3#4
  | .outqOverflow     => 4#4
  | .sequence         => 5#4

/-- The error code of a four-bit number; the reserved values 6 to 15 are no code (R96, I6). -/
def ECode.ofCode (n : BitVec 4) : Option ECode :=
  [ECode.none, .valueOutOfRange, .malformedPadding, .illegalCommand, .outqOverflow, .sequence].find?
    (fun e => e.code == n)

/-- `zext_32` of a one-bit element. -/
def bit (b : Bool) : Word := (BitVec.ofBool b).setWidth 32

/-- The verdict of CHK_VERIFY: CHK_ACC is 1 (R83). -/
def verdict (chk : Chk) : Bool := chk == 1#30

/-- ID: the constant of R22. -/
def idWord : Word := 0xB32C0001#32

/-- `ReadCTRL` (R23, R89). -/
def ctrlWord (s : State) : Word := bit s.chain <<< 1 ||| bit s.pad

/-- `ReadSTATUS` (R24, R90); OQ_COUNT is the seven-bit field [22:16]. -/
def statusWord (s : State) : Word :=
  bit s.err ||| s.ecode.code.setWidth 32 <<< 4 ||| bit s.cvtDone <<< 8 ||| bit s.chkOk <<< 9
    ||| (BitVec.ofNat 7 s.outq.length).setWidth 32 <<< 16

/-- The CVT_STATE register (R27, R93). -/
def cvtStateWord (s : State) : Word := s.nbits.setWidth 32 <<< 16 ||| s.acc.setWidth 32

/-- What DOUT shows of a queue: VALID in bit 31 and the head in bits [4:0]; 0 for an empty queue (R26, R92). -/
def doutWord : List Sym → Word
  | []     => 0x00000000#32
  | w :: _ => 0x80000000#32 ||| w.setWidth 32

end Sys2Proof.Machine
end

