-- ==== Sys2Proof/Machine/Checksum.lean ====
section
/-!
DEFINITION. The checksum engine commands CHK_STEP, CHK_HI, CHK_LO, CHK_CREATE and CHK_VERIFY
(spec/42_checksum.md).
-/

namespace Sys2Proof.Machine

/-- CHK_STEP: step a five-bit value (R77). -/
def execChkStep (v : Sym) (s : State) : Outcome := .next (s.obey fun t => t.stepChk v)

/-- CHK_HI: step the high part of a prefix character (R78). -/
def execChkHi (c : Octet) (s : State) : Outcome := .next (s.obey fun t => t.stepChk (hiPart c))

/-- CHK_LO: step the low part of a prefix character (R79). -/
def execChkLo (c : Octet) (s : State) : Outcome := .next (s.obey fun t => t.stepChk (loPart c))

/-- `ChkCreate()` of R81: the six zeros, `CSUM <- CHK_ACC ^ 1`, and the six digits pushed without `Emit`. -/
def chkCreate (s : State) : State :=
  if Config.nDigits > s.free then s.raise .outqOverflow
  else
    let t := s.setChkAcc (polySteps s.chkAcc (List.replicate Config.nDigits 0#5))
    let u := t.setCsum (t.chkAcc ^^^ 1#30)
    u.enqueueAll (digits u.csum)

/-- CHK_CREATE: compute and queue the six checksum digits (R81). -/
def execChkCreate (s : State) : Outcome := .next (s.obey chkCreate)

/-- CHK_VERIFY: record whether the accumulator is 1 (R83). -/
def execChkVerify (s : State) : Outcome := .next (s.obey fun t => t.setChkOk (verdict t.chkAcc))

end Sys2Proof.Machine
end

