-- ==== Sys2Proof/Machine/Control.lean ====
section
/-!
DEFINITION. The control commands NOP and INIT (spec/40_control.md R63, R64).
-/

namespace Sys2Proof.Machine

/-- NOP: no operation, with ERR = 1 as with ERR = 0 (R63). -/
def execNop (s : State) : Outcome := .next s

/-- INIT: start a new job; the one command obeyed while ERR = 1 (R61, R64). -/
def execInit (s : State) : Outcome := .next s.startJob

end Sys2Proof.Machine
end

