-- ==== Sys2Proof/Machine/Converter.lean ====
section
/-!
DEFINITION. The bit converter commands CVT_PUSH and CVT_FLUSH (spec/41_converter.md).
-/

namespace Sys2Proof.Machine

/-- The loop of R67, `while NBITS >= 5: NBITS <- NBITS - 5; Emit((ACC >> NBITS) & 31)`. The four-bit NBITS
allows at most three rounds, so three rounds of fuel are the whole loop. -/
def emitWhole : Nat → State → State
  | 0,          s => s
  | rounds + 1, s =>
    if Config.toBits ≤ s.nbits.toNat then
      let t := s.setNbits (s.nbits - 5#4)
      emitWhole rounds (t.emit (topWord t.acc t.nbits))
    else s

/-- `CvtPush(v)` of R67, its three checks before any effect. -/
def cvtPush (v : BitVec 24) (s : State) : State :=
  if s.cvtDone then s.raise .sequence
  else if exceedsByte v then s.raise .valueOutOfRange
  else if pushWords s.nbits > s.free then s.raise .outqOverflow
  else emitWhole 3 ((s.setAcc (shiftIn s.acc v)).setNbits (s.nbits + 8#4))

/-- CVT_PUSH: append one 8-bit value to the bit stream and emit every complete word (R67). -/
def execCvtPush (v : BitVec 24) (s : State) : Outcome := .next (s.obey (cvtPush v))

/-- `CvtFlushPad()` of R70. -/
def cvtFlushPad (s : State) : State :=
  if s.cvtDone then s.raise .sequence
  else if tailWords s.nbits > s.free then s.raise .outqOverflow
  else
    let t := if 0 < s.nbits.toNat then s.emit (tailWord s.acc s.nbits) else s
    (t.setNbits 0#4).markFlushed

/-- `CvtFlushStrict()` of R71. -/
def cvtFlushStrict (s : State) : State :=
  if s.cvtDone then s.raise .sequence
  else if badTail s.acc s.nbits then s.raise .malformedPadding
  else (s.setNbits 0#4).markFlushed

/-- `CvtFlush()`: the tail mode is PAD as it stands now (R70, R71, R73). -/
def cvtFlush (s : State) : State := if s.pad then cvtFlushPad s else cvtFlushStrict s

/-- CVT_FLUSH: end the conversion (R70, R71). -/
def execCvtFlush (s : State) : Outcome := .next (s.obey cvtFlush)

end Sys2Proof.Machine
end

