-- ==== Sys2Proof/Machine/Dispatch.lean ====
section
/-!
DEFINITION. One command at a state (spec/40_control.md R61): one arm per command of the opcode table.
-/

namespace Sys2Proof.Machine

def exec (i : Instr) (s : State) : Host.Outcome State Fault Refusal :=
  match i with
  | .nop => Sys2Proof.Machine.execNop s
  | .init => Sys2Proof.Machine.execInit s
  | .cvtPush v => Sys2Proof.Machine.execCvtPush v s
  | .cvtFlush => Sys2Proof.Machine.execCvtFlush s
  | .chkStep v => Sys2Proof.Machine.execChkStep v s
  | .chkHi c => Sys2Proof.Machine.execChkHi c s
  | .chkLo c => Sys2Proof.Machine.execChkLo c s
  | .chkCreate => Sys2Proof.Machine.execChkCreate s
  | .chkVerify => Sys2Proof.Machine.execChkVerify s

end Sys2Proof.Machine
end

