-- ==== Sys2Proof/Machine/HostAccess.lean ====
section
/-!
DEFINITION. Executing a command word (spec/40_control.md R61) and the host's register accesses
(spec/43_host_access.md R87 to R93, spec/20_memory.md R34 to R41).
-/

namespace Sys2Proof.Machine

/-- `Execute(w)`: a word written to CMD runs as one command; an ILLEGAL word raises ILLEGAL_COMMAND. R61's
first test, ERR = 1, stands in `State.obey` (log entry 8). -/
def execute (w : Word) (s : State) : Outcome :=
  match decode w with
  | .ok i    => exec i s
  | .error _ => .next (s.obey fun t => t.raise .illegalCommand)

/-- The register map (R21). -/
def registerMap : List (Nat × Reg) :=
  [ (0x00, .id), (0x04, .ctrl), (0x08, .status), (0x0C, .cmd),
    (0x10, .dout), (0x14, .cvtState), (0x18, .chkAcc), (0x1C, .csum),
    (0x20, .gen 0), (0x24, .gen 1), (0x28, .gen 2), (0x2C, .gen 3),
    (0x30, .gen 4), (0x34, .reserved 0), (0x38, .reserved 1), (0x3C, .reserved 2) ]

/-- The register at an offset of the window; none at an offset that is not a multiple of 4. -/
def registerAt (off : Nat) : Option Reg := registerMap.lookup off

/-- What a read of a register returns (R88 to R93). -/
def readValue (r : Reg) (s : State) : Word :=
  match r with
  | .id         => idWord
  | .ctrl       => ctrlWord s
  | .status     => statusWord s
  | .cmd        => 0x00000000#32
  | .dout       => doutWord s.outq
  | .cvtState   => cvtStateWord s
  | .chkAcc     => s.chkAcc.setWidth 32
  | .csum       => s.csum.setWidth 32
  | .gen i      => (gen i).setWidth 32
  | .reserved _ => 0x00000000#32

/-- What a read of a register does: a read of DOUT pops the head of OUTQ, no other read has an effect (R41, R92). -/
def afterRead (r : Reg) (s : State) : State :=
  match r with
  | .dout => s.setOutq s.outq.tail
  | .id | .ctrl | .status | .cmd | .cvtState | .chkAcc | .csum | .gen _ | .reserved _ => s

/-- A write of a register: CMD executes the word, CTRL takes bits 0 and 1, every other write is ignored
(R40, R87, R89, R91). -/
def writeRegister (r : Reg) (d : Word) (s : State) : Outcome :=
  match r with
  | .cmd  => execute d s
  | .ctrl => .next (s.setCtrl (d.getLsbD 0) (d.getLsbD 1))
  | .id | .status | .dout | .cvtState | .chkAcc | .csum | .gen _ | .reserved _ => .next s

/-- The address lies in the window: `0 <= addr - BASE < 64` (R34, R35). -/
def Access.inWindow (a : Access) : Bool := decide (0 ≤ a.off) && decide (a.off < 64)

/-- The register an access of the window is accepted for: a 32-bit access at a multiple of 4 (R36); none when
it is refused (R37). -/
def Access.target (a : Access) : Option Reg :=
  if a.size = 4 ∧ a.off.toNat % 4 = 0 then registerAt a.off.toNat else none

/-- Record the answer of an access that has completed. -/
def answered (e : HostEvent) (r : Reply) (o : Outcome) : Outcome :=
  match o with
  | .next t    => .next (t.record e (some r))
  | .fault f   => .fault f
  | .refused f => .refused f

/-- `Access(kind, off, size, data)` of R87. An access outside the window gets no answer (R34); a refused one
is answered by the platform and changes no element of the block (R37, R107). -/
def access (a : Access) (s : State) : Outcome :=
  if a.inWindow then
    match a.target, a.kind with
    | none,   _      => answered (.access a) (.busError Config.busErrorResponse) (.next s)
    | some r, .read  => answered (.access a) (.data (readValue r s)) (.next (afterRead r s))
    | some r, .write => answered (.access a) .ok (writeRegister r a.data s)
  else .next (s.record (.access a) none)

/-- One event at a state: an access, or a reset. A reset during an access leaves no effect of the access (R115). -/
def handle (e : HostEvent) (s : State) : Outcome :=
  match e with
  | .access a      => access a s
  | .reset         => .next (s.resetBlock.record .reset none)
  | .resetDuring a => .next (s.resetBlock.record (.resetDuring a) none)

/-- `MemRead(addr, n)` of R8: a read of `n` bytes at a byte address of the host. -/
def memRead (addr n : Nat) : HostEvent := .access ⟨.read, (addr : Int) - Config.base, n, 0#32⟩

/-- `MemWrite(addr, n, v)` of R8. -/
def memWrite (addr n : Nat) (v : Word) : HostEvent := .access ⟨.write, (addr : Int) - Config.base, n, v⟩

/-- `rd` of R58: a 32-bit read of the register at an offset. -/
def rd (off : Nat) : HostEvent := .access ⟨.read, off, 4, 0#32⟩

/-- `wr` of R58: a 32-bit write of the register at an offset. -/
def wr (off : Nat) (v : Word) : HostEvent := .access ⟨.write, off, 4, v⟩

/-- `wr CMD, w`: what every command line assembles to (R58). -/
def wrCmd (w : Word) : HostEvent := wr 0x0C w

end Sys2Proof.Machine
end

