-- ==== Sys2Proof/Machine/Step.lean ====
section
/-!
DEFINITION. One step of the machine: the block handles the oldest event that has reached it, to completion
(spec/20_memory.md R42, R43). With none pending it holds its state and does nothing (spec/60_exceptions.md
R112).
-/

namespace Sys2Proof.Machine

/-- One step. -/
def step (s : State) : Host.Outcome State Fault Refusal :=
  match s.pending with
  | []      => .next s
  | e :: es => handle e (s.setPending es)

/-- `s` with a CMD write of the word as the next event, so that the next step runs it (log entry 7). -/
def State.withFetchWord (s : State) (nbits w : Nat) : State :=
  s.setPending (wrCmd (tableWord nbits w) :: s.pending)

end Sys2Proof.Machine
end

