-- ==== Sys2Proof/Machine/Job.lean ====
section
/-!
DEFINITION. What the spec says of whole sequences: the converter's bit stream (spec/20_memory.md R39,
spec/41_converter.md R74), the polymod of a sequence and the prefix expansion (spec/42_checksum.md R80, R82),
and a job with its result (spec/70_reset_and_hazards.md R117, R118). The step does not use this file; claims do.
-/

namespace Sys2Proof.Machine

/-! ### Sequences of commands -/

/-- Commands one after another, stopping at the first that does not give a next state. -/
def execAll : List Instr → State → Outcome
  | [],      s => .next s
  | i :: is, s =>
    match exec i s with
    | .next t    => execAll is t
    | .fault f   => .fault f
    | .refused f => .refused f

/-- The values a command steps into CHK_ACC when it completes, the words chained by the converter apart (R77 to
R79, R81). -/
def steppedBy : Instr → List Sym
  | .chkStep v => [v]
  | .chkHi c   => [hiPart c]
  | .chkLo c   => [loPart c]
  | .chkCreate => List.replicate Config.nDigits 0#5
  | .nop | .init | .cvtPush _ | .cvtFlush | .chkVerify => []

/-- The values the command `i` steps into CHK_ACC at the state `s`, `t` being the state after it: a converter
command steps the words it appends to OUTQ, with CHAIN = 1 (R69); any other steps its own values. -/
def steppedBetween (i : Instr) (s t : State) : List Sym :=
  match i with
  | .cvtPush _ | .cvtFlush => if s.chain then t.outq.drop s.outq.length else []
  | .nop | .init | .chkStep _ | .chkHi _ | .chkLo _ | .chkCreate | .chkVerify => steppedBy i

/-- The values that commands without an error step into CHK_ACC from a state on, in order, the chained words among
them (R82). -/
def jobSteps : List Instr → State → List Sym
  | [],      _ => []
  | i :: is, s =>
    match exec i s with
    | .next t => steppedBetween i s t ++ jobSteps is t
    | .fault _ | .refused _ => []

/-! ### The polymod (R75, R82) -/

/-- `PolyStep` written on natural numbers, operator by operator as R75 has it, with the constants of R19. -/
def polyStepNat (chk v : Nat) : Nat :=
  let b := chk >>> 25
  let c := ((chk &&& 0x1FFFFFF) <<< 5) ^^^ v
  let c := if b.testBit 0 then c ^^^ 0x3b6a57b2 else c
  let c := if b.testBit 1 then c ^^^ 0x26508e6d else c
  let c := if b.testBit 2 then c ^^^ 0x1ea119fa else c
  let c := if b.testBit 3 then c ^^^ 0x3d4233dd else c
  if b.testBit 4 then c ^^^ 0x2a1462b3 else c

/-- `Polymod(s)`: 1 stepped through the sequence (R82). -/
def polymod (vs : List Sym) : Chk := polySteps 1#30 vs

/-- `hrp_expand`: the high parts, a zero, the low parts (R80). -/
def hrpExpand (hrp : List Octet) : List Sym := hrp.map hiPart ++ [0#5] ++ hrp.map loPart

/-- The six digits of `create_checksum` for the values `vs` (R81). -/
def checksumOf (vs : List Sym) : List Sym :=
  digits (polymod (vs ++ List.replicate Config.nDigits 0#5) ^^^ 1#30)

/-! ### The bit stream (R39) -/

/-- The bits of a value, most significant first. -/
def msbFirst {n : Nat} (v : BitVec n) : List Bool := (List.range n).map fun i => v.getLsbD (n - 1 - i)

/-- Stream bit `s(k)`: `b_{k div 8}[7 - (k mod 8)]`, and 0 from the end of the input on (R39). -/
def streamBit (bs : List Octet) (k : Nat) : Bool :=
  match bs[k / 8]? with
  | some b => b.getLsbD (7 - k % 8)
  | none   => false

/-- Word `j`: `sum over t in 0..4 of s(5j + t) << (4 - t)` (R39). -/
def streamWord (bs : List Octet) (j : Nat) : Sym :=
  BitVec.ofNat 5 ((List.range 5).map fun t => (streamBit bs (5 * j + t)).toNat <<< (4 - t)).sum

/-- `ceil(8k/5)`: the words of a padded conversion of `k` values (R72). -/
def wordCount (k : Nat) : Nat := (8 * k + 4) / 5

/-- The words of a padded conversion (R39, R72). -/
def dataWords (bs : List Octet) : List Sym := (List.range (wordCount bs.length)).map (streamWord bs)

/-- Bits regrouped into 8-bit values, most significant first, an incomplete group at the end dropped (R74). -/
def regroup8 : List Bool → List Octet
  | a :: b :: c :: d :: e :: f :: g :: h :: rest =>
    BitVec.ofNat 8 ([a, b, c, d, e, f, g, h].foldl (fun n x => 2 * n + x.toNat) 0) :: regroup8 rest
  | _ => []

/-! ### The encode job (R59, R60, R117) -/

/-- `chk.hrp`: the commands that step `hrp_expand` (R59, R80). -/
def hrpCommands (hrp : List Octet) : List Instr :=
  hrp.map Instr.chkHi ++ [Instr.chkStep 0#5] ++ hrp.map Instr.chkLo

/-- `cvt.bytes` of byte values: one CVT_PUSH each (R60). -/
def pushCommands (bs : List Octet) : List Instr := bs.map fun b => Instr.cvtPush (b.setWidth 24)

/-- The commands of the canonical encode job (R117). -/
def encodeCommands (hrp bs : List Octet) : List Instr :=
  [Instr.init] ++ hrpCommands hrp ++ pushCommands bs ++ [Instr.cvtFlush, Instr.chkCreate]

/-- What the host writes to run a command (R58). -/
def commandEvent (i : Instr) : HostEvent := wrCmd (encode i)

/-- The canonical encode job as the host performs it (R117). -/
def canonicalJob (hrp bs : List Octet) : List HostEvent :=
  [wr 0x04 3#32] ++ (encodeCommands hrp bs).map commandEvent ++ [rd 0x08]
    ++ List.replicate (wordCount bs.length + Config.nDigits) (rd 0x10)

/-! ### The result of a job (R118) -/

/-- The event starts a new job: a reset, or an accepted write of the exact INIT word to CMD (R98, R118). -/
def HostEvent.startsJob : HostEvent → Bool
  | .reset | .resetDuring _ => true
  | .access a => decide (a.kind = .write ∧ a.off = 0x0C ∧ a.size = 4 ∧ a.data = 0x01000000#32)

/-- What has happened since the last INIT or reset, the earliest first (R118). -/
def State.jobHistory (s : State) : List Handled :=
  (s.history.takeWhile fun x => !x.event.startsJob).reverse

/-- The value a handled event gave the host from DOUT; none for any other event and for a read of an empty
queue, which shows VALID = 0 (R92). -/
def doutValue : Handled → Option Sym
  | ⟨.access a, some (.data v), _⟩ =>
    if a.kind = .read ∧ a.off = 0x10 ∧ v.getLsbD 31 = true then some (field v 0 5) else none
  | _ => none

/-- The values the host read from DOUT during the job, followed by any still in OUTQ (R118). -/
def State.jobWords (s : State) : List Sym := s.jobHistory.filterMap doutValue ++ s.outq

/-- The result of a job (R118): its words, or the kind of its failure. -/
inductive JobResult where
  | words (ws : List Sym)
  | failure (kind : ECode)
deriving DecidableEq, Repr

/-- The result of the job that ends at this state (R108, R118). -/
def State.jobResult (s : State) : JobResult :=
  if s.err then .failure s.ecode else .words s.jobWords

/-- The event writes the word to CMD. -/
def HostEvent.writesCmd (w : Word) : HostEvent → Bool
  | .access a => decide (a.kind = .write ∧ a.off = 0x0C ∧ a.size = 4 ∧ a.data = w)
  | .reset | .resetDuring _ => false

/-- The event was a CMD write of the word and its command executed without error: ERR was 0 right after it, and so,
being sticky (R98), also right before it unless the word is INIT's. -/
def Handled.ranWithoutError (w : Word) (x : Handled) : Bool := x.event.writesCmd w && !x.err

/-- The encode job is complete: its CVT_FLUSH and its CHK_CREATE have both executed without error, whatever has
happened since (R118; log entry 18). Whether the job has failed is `State.jobResult`'s to say. -/
def State.encodeComplete (s : State) : Bool :=
  s.jobHistory.any (Handled.ranWithoutError 0x11000000#32) &&
    s.jobHistory.any (Handled.ranWithoutError 0x23000000#32)

end Sys2Proof.Machine
end

