-- ==== Sys2Proof/Machine/Assembler.lean ====
section
/-!
DEFINITION. The assembler's text (spec/30_encoding.md R57 to R60): a program's lines become the host's accesses.
It stands outside the block; the step does not use it. What R57 to R60 leave open about the text is the model's
choice (DESIGN CHOICE: log entry 15).
-/

namespace Sys2Proof.Machine.Assembler

/-- Why the assembler refuses a line. -/
inductive AsmError where
  /-- A character that begins no operand, or a quote that is not closed. -/
  | badText
  /-- The first word is no command, pseudo-instruction or access. -/
  | unknownMnemonic
  /-- The operands are not of the kind the line needs. -/
  | badOperand
  /-- An operand outside the range of R57. -/
  | outOfRange
  /-- `cvt.hex` with an odd number of digits or a character that is no hexadecimal digit (R60). -/
  | invalidHex
deriving DecidableEq, Repr

/-- A piece of a line. -/
inductive Token where
  | text (cs : List Char)
  | comma
  /-- A character in single quotes (R58). -/
  | char (c : Char)
  /-- A string in double quotes (R59). -/
  | str (cs : List Char)
deriving DecidableEq, Repr

/-- Where the reading of a line stands. -/
inductive LexMode where
  | between
  | inText (back : List Char)
  | inChar (got : Option Char)
  | inString (back : List Char)
deriving DecidableEq, Repr

/-- The single quote. -/
def singleQuote : Char := Char.ofNat 0x27

/-- The double quote. -/
def doubleQuote : Char := Char.ofNat 0x22

/-- White space within a line. -/
def isBlank (c : Char) : Bool := c == ' ' || c == '\t' || c == '\r'

/-- The tokens of a line; a `;` outside quotes starts the comment (R57). DESIGN CHOICE, log entry 15: a
double-quoted string has no escape and ends at the next double quote, so the character 0x22 cannot stand in
`chk.hrp` (a number in `chk.hi` and `chk.lo` can give it); between single quotes stands exactly one character, any
character, a quote or a `;` too. -/
def lex : LexMode → List Char → Except AsmError (List Token)
  | .between, []     => .ok []
  | .inText b, []    => .ok [.text b.reverse]
  | .inChar _, []    => .error .badText
  | .inString _, []  => .error .badText
  | .between, c :: cs =>
    if c = ';' then .ok []
    else if isBlank c then lex .between cs
    else if c = ',' then do return .comma :: (← lex .between cs)
    else if c = singleQuote then lex (.inChar none) cs
    else if c = doubleQuote then lex (.inString []) cs
    else lex (.inText [c]) cs
  | .inText b, c :: cs =>
    if c = ';' then .ok [.text b.reverse]
    else if isBlank c then do return .text b.reverse :: (← lex .between cs)
    else if c = ',' then do return .text b.reverse :: .comma :: (← lex .between cs)
    else if c = singleQuote ∨ c = doubleQuote then .error .badText
    else lex (.inText (c :: b)) cs
  | .inChar none, c :: cs => lex (.inChar (some c)) cs
  | .inChar (some x), c :: cs =>
    if c = singleQuote then do return .char x :: (← lex .between cs) else .error .badText
  | .inString b, c :: cs =>
    if c = doubleQuote then do return .str b.reverse :: (← lex .between cs) else lex (.inString (c :: b)) cs

/-- The value of a hexadecimal digit. -/
def hexDigit (c : Char) : Option Nat :=
  if '0' ≤ c ∧ c ≤ '9' then some (c.toNat - 48)
  else if 'a' ≤ c ∧ c ≤ 'f' then some (c.toNat - 87)
  else if 'A' ≤ c ∧ c ≤ 'F' then some (c.toNat - 55)
  else none

/-- The value of a decimal digit. -/
def decDigit (c : Char) : Option Nat := if '0' ≤ c ∧ c ≤ '9' then some (c.toNat - 48) else none

/-- The number the digits spell after `n`, in a base. -/
def digitsValue (radix : Nat) (digit : Char → Option Nat) : Nat → List Char → Option Nat
  | n, []      => some n
  | n, c :: cs =>
    match digit c with
    | some d => digitsValue radix digit (n * radix + d) cs
    | none   => none

/-- A decimal or hexadecimal number (R58). -/
def number : List Char → Option Nat
  | []                   => none
  | ['0', 'x']           => none
  | '0' :: 'x' :: c :: cs => digitsValue 16 hexDigit 0 (c :: cs)
  | cs                   => digitsValue 10 decDigit 0 cs

/-- A single number operand in `0..max` (R57). -/
def numberUpTo (max : Nat) : List Token → Except AsmError Nat
  | [.text cs] =>
    match number cs with
    | some n => if n ≤ max then .ok n else .error .outOfRange
    | none   => .error .badOperand
  | _ => .error .badOperand

/-- The ASCII code of a character (R9, R58); none for a character that is not ASCII. -/
def asciiCode (c : Char) : Except AsmError Octet :=
  if c.toNat ≤ 127 then .ok (BitVec.ofNat 8 c.toNat) else .error .outOfRange

/-- The operand of `chk.hi` and `chk.lo`: a number in 0..255 or a quoted character (R57, R58). -/
def charCode : List Token → Except AsmError Octet
  | [.char c] => asciiCode c
  | ts        => (numberUpTo 0xFF ts).map (BitVec.ofNat 8)

/-- The ASCII codes of a string (R9). -/
def asciiCodes : List Char → Except AsmError (List Octet)
  | []      => .ok []
  | c :: cs => do return (← asciiCode c) :: (← asciiCodes cs)

/-- The numbers of `cvt.bytes b_0, ..., b_{n-1}` (R60). -/
def valueList : List Token → Except AsmError (List Nat)
  | []                    => .ok []
  | [t]                   => do return [← numberUpTo 0xFFFFFF [t]]
  | t :: .comma :: u :: ts => do return (← numberUpTo 0xFFFFFF [t]) :: (← valueList (u :: ts))
  | _                     => .error .badOperand

/-- The bytes of `cvt.hex`, two digits each, the first the high nibble (R60). -/
def hexBytes : List Char → Except AsmError (List Octet)
  | []           => .ok []
  | a :: b :: cs =>
    match hexDigit a, hexDigit b with
    | some x, some y => do return BitVec.ofNat 8 (x * 16 + y) :: (← hexBytes cs)
    | _, _           => .error .invalidHex
  | [_]          => .error .invalidHex

/-- The offset of a register's name (R21), or a register's offset written as a number. -/
def registerOffset (cs : List Char) : Option Nat :=
  let names : List (List Char × Nat) :=
    [ ("ID".toList, 0x00), ("CTRL".toList, 0x04), ("STATUS".toList, 0x08), ("CMD".toList, 0x0C),
      ("DOUT".toList, 0x10), ("CVT_STATE".toList, 0x14), ("CHK_ACC".toList, 0x18), ("CSUM".toList, 0x1C),
      ("GEN0".toList, 0x20), ("GEN1".toList, 0x24), ("GEN2".toList, 0x28), ("GEN3".toList, 0x2C),
      ("GEN4".toList, 0x30) ]
  match names.lookup cs with
  | some off => some off
  | none     => (number cs).filter fun off => (registerAt off).isSome

/-- The commands of a line without operands, or none if the word is no such mnemonic (R57, R59). -/
def plainCommand (m : List Char) : Option Instr :=
  [ ("nop".toList, Instr.nop), ("init".toList, .init), ("cvt.flush".toList, .cvtFlush),
    ("chk.create".toList, .chkCreate), ("chk.verify".toList, .chkVerify), ("chk.sep".toList, .chkStep 0#5) ].lookup m

/-- The events of a line whose first word is `m` and whose operands are `ts` (R57 to R60). -/
def statement (m : List Char) (ts : List Token) : Except AsmError (List HostEvent) :=
  match plainCommand m with
  | some i => if ts = [] then .ok [commandEvent i] else .error .badOperand
  | none =>
    if m = "cvt.push".toList then
      (numberUpTo 0xFFFFFF ts).map fun v => [commandEvent (.cvtPush (BitVec.ofNat 24 v))]
    else if m = "chk.step".toList then
      (numberUpTo 31 ts).map fun v => [commandEvent (.chkStep (BitVec.ofNat 5 v))]
    else if m = "chk.hi".toList then (charCode ts).map fun c => [commandEvent (.chkHi c)]
    else if m = "chk.lo".toList then (charCode ts).map fun c => [commandEvent (.chkLo c)]
    else if m = ".word".toList then
      (numberUpTo 0xFFFFFFFF ts).map fun w => [wrCmd (BitVec.ofNat 32 w)]
    else if m = "chk.hrp".toList then
      match ts with
      | [.str cs] => (asciiCodes cs).map fun hrp => (hrpCommands hrp).map commandEvent
      | _         => .error .badOperand
    else if m = "cvt.bytes".toList then
      (valueList ts).map fun vs => vs.map fun v => commandEvent (.cvtPush (BitVec.ofNat 24 v))
    else if m = "cvt.hex".toList then
      match ts with
      | [.str cs] => (hexBytes cs).map fun bs => (pushCommands bs).map commandEvent
      | _         => .error .badOperand
    else if m = "rd".toList then
      match ts with
      | [.text r] =>
        match registerOffset r with
        | some off => .ok [rd off]
        | none     => .error .badOperand
      | _ => .error .badOperand
    else if m = "wr".toList then
      match ts with
      | [.text r, .comma, v] =>
        match registerOffset r with
        | some off => (numberUpTo 0xFFFFFFFF [v]).map fun d => [wr off (BitVec.ofNat 32 d)]
        | none     => .error .badOperand
      | _ => .error .badOperand
    else .error .unknownMnemonic

/-- The events of one line (R57). -/
def assembleLine (cs : List Char) : Except AsmError (List HostEvent) :=
  match lex .between cs with
  | .ok []              => .ok []
  | .ok (.text m :: ts) => statement m ts
  | .ok _               => .error .unknownMnemonic
  | .error e            => .error e

/-- The events of a program's lines, in order. -/
def assembleLines : List String → Except AsmError (List HostEvent)
  | []      => .ok []
  | l :: ls => do return (← assembleLine l.toList) ++ (← assembleLines ls)

end Sys2Proof.Machine.Assembler
end

