-- ==== Sys2Proof/Safety.lean ====
section
/-!
DEFINITION. What the claims speak of: the invariant of the states between two commands (spec/41_converter.md
R72, spec/10_state.md R13, R17), the order of a command's checks (spec/60_exceptions.md R99), and what a safe
run is.
-/

namespace Sys2Proof.Machine

/-- What holds between two commands: NBITS is in 0..4 (R72), OUTQ holds at most 64 entries (R13), ECODE is 0
exactly while ERR is 0 (R17, R97), and a flushed converter holds no buffered bits (R70, R71). -/
abbrev State.Inv (s : State) : Prop :=
  s.nbits.toNat ≤ 4 ∧ s.outq.length ≤ 64 ∧ (s.err = false ↔ s.ecode = .none) ∧
    (s.cvtDone = true → s.nbits = 0#4)

/-- A safe run never stops: from the state, any number of steps gives a next state (R87: no access is held). -/
def State.Safe (s : State) : Prop := ∀ k, ∃ t, Host.Core.run Sys2Proof.core k s = .next t

/-- The error a word raises at a state with ERR = 0, in R99's order, written from R99 to R104 on natural numbers. -/
def firstError (w : Word) (s : State) : Option ECode :=
  match decode w with
  | .error _ => some .illegalCommand
  | .ok (.cvtPush v) =>
    if s.cvtDone then some .sequence
    else if 256 ≤ v.toNat then some .valueOutOfRange
    else if 64 < s.outq.length + (if s.nbits.toNat ≤ 1 then 1 else 2) then some .outqOverflow
    else none
  | .ok .cvtFlush =>
    if s.cvtDone then some .sequence
    else if s.pad = false ∧ s.acc.toNat % 2 ^ s.nbits.toNat ≠ 0 then some .malformedPadding
    else if s.pad = true ∧ s.nbits ≠ 0#4 ∧ 64 < s.outq.length + 1 then some .outqOverflow
    else none
  | .ok .chkCreate => if 64 < s.outq.length + 6 then some .outqOverflow else none
  | .ok .nop | .ok .init | .ok (.chkStep _) | .ok (.chkHi _) | .ok (.chkLo _) | .ok .chkVerify => none

/-- A 32-bit read of the register at `off` answers `value` and has no side effect, in every state (R41). -/
def ReadsAs (off : Nat) (value : State → Word) : Prop :=
  ∀ (s : State) (es : List HostEvent), s.pending = rd off :: es →
    step s = .next { s with pending := es, history := ⟨rd off, some (.data (value s)), s.err⟩ :: s.history }

/-- A 32-bit write of the register at `off` completes and is ignored, in every state (R40). -/
def WriteIgnored (off : Nat) : Prop :=
  ∀ (s : State) (es : List HostEvent) (d : Word), s.pending = wr off d :: es →
    step s = .next { s with pending := es, history := ⟨wr off d, some .ok, s.err⟩ :: s.history }

/-- The state after an error: ERR and ECODE, nothing else (R97). -/
abbrev State.failed (s : State) (e : ECode) : State := { s with err := true, ecode := e }

end Sys2Proof.Machine
end

