-- ==== Sys2Proof/Certificates/Slice0/Obligations.lean ====
section
/-!
DEFINITION. The statements for the provers. Each docstring names the rules of spec/ it formalises.
-/

open Sys2Proof Sys2Proof.Machine

/-! ### Encoding -/

/-- Every command's word decodes to it, with every operand at every value (R50, R51, R57). -/
def Obligations.DecodeEncode : Prop := ∀ i : Instr, decode (encode i) = .ok i

/-- Each word stands for at most one command: a word that decodes is the word of its command (R51, R52). -/
def Obligations.EncodeDecode : Prop := ∀ (w : Word) (i : Instr), decode w = .ok i → encode i = w

/-- Decode is total and unambiguous (R52): a command exactly when a row selects the word, ILLEGAL when none does;
no two rows select one word, their OP values differ and every mask covers bits [31:24]. -/
def Obligations.DecodeSelectsTheOneRow : Prop :=
  (∀ (w : Word) (i : Instr), decode w = .ok i ↔ ∃ r ∈ opcodeTable, w &&& r.mask = r.value ∧ r.read w = i) ∧
  (∀ w : Word, (∃ e, decode w = .error e) ↔ ∀ r ∈ opcodeTable, w &&& r.mask ≠ r.value) ∧
  (∀ r ∈ opcodeTable, field r.mask 24 8 = 0xFF#8) ∧
  opcodeTable.Pairwise (fun r q => field r.value 24 8 ≠ field q.value 24 8) ∧
  opcodeTable.Pairwise (fun r q => ∀ w : Word, ¬ (w &&& r.mask = r.value ∧ w &&& q.mask = q.value))

/-- Exactly the words of R53 are ILLEGAL, and with ERR = 0 each raises ILLEGAL_COMMAND and changes nothing else. -/
def Obligations.ReservedWordsAreIllegal : Prop :=
  (∀ w : Word, (∃ e, decode w = .error e) ↔
    ((0x02 ≤ (field w 24 8).toNat ∧ (field w 24 8).toNat ≤ 0x0F) ∨
     (0x12 ≤ (field w 24 8).toNat ∧ (field w 24 8).toNat ≤ 0x1F) ∨
     0x25 ≤ (field w 24 8).toNat ∨
     (field w 24 8 ∈ [0x00#8, 0x01#8, 0x11#8, 0x23#8, 0x24#8] ∧ field w 0 24 ≠ 0#24) ∨
     (field w 24 8 = 0x20#8 ∧ field w 5 19 ≠ 0#19) ∨
     (field w 24 8 ∈ [0x21#8, 0x22#8] ∧ field w 8 16 ≠ 0#16))) ∧
  (∀ (w : Word) (e : Illegal) (s : State), decode w = .error e → s.err = false →
    execute w s = .next (s.failed .illegalCommand))

/-- A CVT_PUSH word has no must-be-zero bits: with any of OPND[23:8] set it decodes as CVT_PUSH and raises
VALUE_OUT_OF_RANGE, not ILLEGAL_COMMAND (R54; CVT_DONE = 0, since R99 checks SEQUENCE first). -/
def Obligations.PushOperandHasNoReservedBits : Prop :=
  (∀ v : BitVec 24, decode (0x10000000#32 ||| v.setWidth 32) = .ok (.cvtPush v)) ∧
  (∀ (v : BitVec 24) (s : State), s.err = false → s.cvtDone = false → v.extractLsb' 8 16 ≠ 0#16 →
    execute (0x10000000#32 ||| v.setWidth 32) s = .next (s.failed .valueOutOfRange))

/-- Words written out from R51, one of each operand form, and two illegal ones (R52, R53). R52 knows one ILLEGAL; that
the decoder gives it two names, as the last two clauses have it, is the model's choice (log entry 16). -/
def Obligations.WrittenOutWordsDecode : Prop :=
  decode 0b00000001000000000000000000000000#32 = .ok .init ∧
  decode 0b00010000000000000000000011111111#32 = .ok (.cvtPush 0xFF#24) ∧
  decode 0b00100000000000000000000000011111#32 = .ok (.chkStep 31#5) ∧
  decode 0b00100001000000000000000001100001#32 = .ok (.chkHi 0x61#8) ∧
  decode 0b00100000000000000000000000100000#32 = .error .mustBeZeroBitSet ∧
  decode 0b00100101000000000000000000000000#32 = .error .unassignedOpcode

/-! ### A step runs the decoded command -/

/-- When the next event is a CMD write whose word decodes to `i`, the step is `exec i` at the state without that
event, and the write's completion is recorded (R61, R91). -/
def Obligations.StepRunsDecodedCommand : Prop :=
  ∀ (s t : State) (es : List HostEvent) (w : Word) (i : Instr),
    s.pending = wrCmd w :: es → decode w = .ok i → exec i { s with pending := es } = .next t →
      step s = .next { t with history := ⟨wrCmd w, some .ok, t.err⟩ :: t.history }

/-- A word placed for the next step is the command the next step runs, and the handled event is the CMD write of that
word (the model's way of starting a program: log entry 7; its record: log entry 6). -/
def Obligations.FetchWordRunsNext : Prop :=
  ∀ (s t : State) (nbits w : Nat) (i : Instr), decodeTableWord nbits w = some i → exec i s = .next t →
    step (s.withFetchWord nbits w) =
      .next { t with history := ⟨wrCmd (tableWord nbits w), some .ok, t.err⟩ :: t.history }

/-- `Execute` follows R61's order: with ERR = 1 only the exact INIT word is obeyed, with ERR = 0 an ILLEGAL word
raises ILLEGAL_COMMAND and any other runs its command. -/
def Obligations.ExecuteTestsErrFirst : Prop :=
  ∀ (w : Word) (s : State),
    (s.err = true → w = 0x01000000#32 → execute w s = exec .init s) ∧
    (s.err = true → w ≠ 0x01000000#32 → execute w s = .next s) ∧
    (s.err = false → ∀ e, decode w = .error e → execute w s = .next (s.failed .illegalCommand)) ∧
    (s.err = false → ∀ i, decode w = .ok i → execute w s = exec i s)

/-! ### Control commands -/

/-- NOP changes nothing, in every state; its word is 0 exactly (R63). -/
def Obligations.NopHasNoEffect : Prop :=
  (∀ s : State, exec .nop s = .next s) ∧
  (∀ w : Word, decode w = .ok .nop ↔ w = 0x00000000#32) ∧
  (∀ (w : Word) (s : State), field w 24 8 = 0x00#8 → field w 0 24 ≠ 0#24 → s.err = false →
    execute w s = .next (s.failed .illegalCommand))

/-- INIT gives every element but PAD and CHAIN its reset value, with ERR = 1 too; it is the only command obeyed
while ERR = 1; its word is 0x01000000 exactly (R64). -/
def Obligations.InitStartsJob : Prop :=
  (∀ s : State, exec .init s = .next
    { acc := 0#12, nbits := 0#4, cvtDone := false, outq := [], chkAcc := 1#30, csum := 0#30, chkOk := false,
      err := false, ecode := .none, pad := s.pad, chain := s.chain, pending := s.pending, history := s.history }) ∧
  (∀ (i : Instr) (s : State), s.err = true → i ≠ .init → exec i s = .next s) ∧
  (∀ w : Word, decode w = .ok .init ↔ w = 0x01000000#32) ∧
  (∀ (w : Word) (s : State), field w 24 8 = 0x01#8 → field w 0 24 ≠ 0#24 →
    execute w s = .next (if s.err then s else s.failed .illegalCommand))

/-! ### The bit converter -/

/-- An accepted CVT_PUSH: ACC takes the byte, NBITS goes to (NBITS + 8) mod 5, and one word (NBITS 0 or 1) or two
(NBITS 2, 3 or 4) are appended in order and, with CHAIN = 1, stepped in order; nothing else changes (R67, R68,
R69). -/
def Obligations.CvtPushCompletes : Prop :=
  ∀ (s : State) (v : BitVec 24), s.err = false → s.cvtDone = false → v.toNat < 256 →
    let acc : BitVec 12 := BitVec.ofNat 12 (s.acc.toNat * 256 + v.toNat)
    let word (down : Nat) : Sym := BitVec.ofNat 5 (acc.toNat / 2 ^ down)
    let n := s.nbits.toNat
    (n ≤ 1 → s.outq.length + 1 ≤ 64 → exec (.cvtPush v) s = .next
      { s with
        acc := acc
        nbits := BitVec.ofNat 4 (n + 3)
        outq := s.outq ++ [word (n + 3)]
        chkAcc := if s.chain then polyStep s.chkAcc (word (n + 3)) else s.chkAcc }) ∧
    (2 ≤ n → n ≤ 4 → s.outq.length + 2 ≤ 64 → exec (.cvtPush v) s = .next
      { s with
        acc := acc
        nbits := BitVec.ofNat 4 (n - 2)
        outq := s.outq ++ [word (n + 3), word (n - 2)]
        chkAcc := if s.chain then polyStep (polyStep s.chkAcc (word (n + 3))) (word (n - 2)) else s.chkAcc })

/-- The errors of CVT_PUSH in their order, each leaving everything but ERR and ECODE (R67, R99). -/
def Obligations.CvtPushErrors : Prop :=
  ∀ (s : State) (v : BitVec 24), s.err = false →
    (s.cvtDone = true → exec (.cvtPush v) s = .next (s.failed .sequence)) ∧
    (s.cvtDone = false → 256 ≤ v.toNat → exec (.cvtPush v) s = .next (s.failed .valueOutOfRange)) ∧
    (s.cvtDone = false → v.toNat < 256 → s.outq.length ≤ 64 → 64 < s.outq.length + (s.nbits.toNat + 8) / 5 →
      exec (.cvtPush v) s = .next (s.failed .outqOverflow))

/-- CVT_FLUSH with PAD = 1 (R70): SEQUENCE after a flush; OUTQ_OVERFLOW if a tail word is due and OUTQ is full;
otherwise NBITS 0 and CVT_DONE 1, after the tail word (the remaining bits left-aligned, zero below) if bits remain. -/
def Obligations.CvtFlushPadded : Prop :=
  decode 0x11000000#32 = .ok .cvtFlush ∧
  ∀ s : State, s.err = false → s.pad = true →
    let w : Sym := BitVec.ofNat 5 (s.acc.toNat * 2 ^ (5 - s.nbits.toNat))
    (s.cvtDone = true → exec .cvtFlush s = .next (s.failed .sequence)) ∧
    (s.cvtDone = false → s.nbits = 0#4 → exec .cvtFlush s = .next { s with cvtDone := true }) ∧
    (s.cvtDone = false → s.nbits ≠ 0#4 → s.outq.length < 64 → exec .cvtFlush s = .next
      { s with
        nbits := 0#4
        cvtDone := true
        outq := s.outq ++ [w]
        chkAcc := if s.chain then polyStep s.chkAcc w else s.chkAcc }) ∧
    (s.cvtDone = false → s.nbits ≠ 0#4 → 64 ≤ s.outq.length →
      exec .cvtFlush s = .next (s.failed .outqOverflow))

/-- CVT_FLUSH with PAD = 0 (R71): SEQUENCE after a flush; MALFORMED_PADDING if `NBITS >= 8` or
`((ACC << (5 - NBITS)) & 31) != 0`; otherwise NBITS 0 and CVT_DONE 1 and nothing emitted, even with OUTQ full. -/
def Obligations.CvtFlushStrict : Prop :=
  decode 0x11000000#32 = .ok .cvtFlush ∧
  ∀ s : State, s.err = false → s.pad = false →
    (s.cvtDone = true → exec .cvtFlush s = .next (s.failed .sequence)) ∧
    (s.cvtDone = false → (8 ≤ s.nbits.toNat ∨ (s.acc.toNat * 2 ^ (5 - s.nbits.toNat)) % 32 ≠ 0) →
      exec .cvtFlush s = .next (s.failed .malformedPadding)) ∧
    (s.cvtDone = false → s.nbits.toNat < 8 → (s.acc.toNat * 2 ^ (5 - s.nbits.toNat)) % 32 = 0 →
      exec .cvtFlush s = .next { s with nbits := 0#4, cvtDone := true })

/-- After INIT and `k` pushes of bytes, `(8k) div 5` words are queued and NBITS is `(8k) mod 5`; a padded flush
then makes `ceil(8k/5)` words; a strict flush then succeeds exactly when the last `(8k) mod 5` stream bits are
zero (R72; within the capacity of OUTQ, R103). -/
def Obligations.PushesCountWords : Prop :=
  ∀ (s : State) (bs : List Octet), (8 * bs.length) / 5 ≤ 64 →
    (∃ t, execAll ([Instr.init] ++ pushCommands bs) s = .next t ∧ t.err = false ∧
      t.outq.length = (8 * bs.length) / 5 ∧ t.nbits.toNat = (8 * bs.length) % 5) ∧
    (s.pad = true → wordCount bs.length ≤ 64 →
      ∃ t, execAll ([Instr.init] ++ pushCommands bs ++ [Instr.cvtFlush]) s = .next t ∧ t.err = false ∧
        t.outq.length = wordCount bs.length) ∧
    (s.pad = false →
      ∃ t, execAll ([Instr.init] ++ pushCommands bs ++ [Instr.cvtFlush]) s = .next t ∧
        (t.err = false ↔
          ∀ j, j < (8 * bs.length) % 5 → streamBit bs (8 * bs.length - 1 - j) = false))

/-- A padded conversion queues exactly the words of the bit stream: word `j` is
`sum over t in 0..4 of s(5j + t) << (4 - t)`, for `j` in `0..ceil(8k/5)-1` (R39). -/
def Obligations.PaddedConversionIsTheBitStream : Prop :=
  ∀ (s : State) (bs : List Octet), s.pad = true → wordCount bs.length ≤ 64 →
    ∃ t, execAll ([Instr.init] ++ pushCommands bs ++ [Instr.cvtFlush]) s = .next t ∧ t.err = false ∧
      t.cvtDone = true ∧ t.outq = dataWords bs

/-- The words of a padded conversion, five bits each, are the input's bits followed by 0 to 4 zero bits, and
regrouping them into bytes without that tail gives the input back (R74). -/
def Obligations.ConversionIsLossless : Prop :=
  ∀ (s : State) (bs : List Octet), s.pad = true → wordCount bs.length ≤ 64 →
    ∃ t, execAll ([Instr.init] ++ pushCommands bs ++ [Instr.cvtFlush]) s = .next t ∧
      t.outq.flatMap msbFirst =
        bs.flatMap msbFirst ++ List.replicate (5 * wordCount bs.length - 8 * bs.length) false ∧
      5 * wordCount bs.length - 8 * bs.length ≤ 4 ∧
      regroup8 ((t.outq.flatMap msbFirst).take (8 * bs.length)) = bs

/-! ### The checksum engine -/

/-- `PolyStep` is R75's computation on natural numbers, with the constants of R19. -/
def Obligations.PolyStepOnNaturals : Prop :=
  ∀ (chk : Chk) (v : Sym), (polyStep chk v).toNat = polyStepNat chk.toNat v.toNat

/-- No step leaves 30 bits, so CHK_ACC[31:30] always reads 0 (R84). -/
def Obligations.PolyStepStaysInThirtyBits : Prop :=
  (∀ chk v : Nat, chk < 2 ^ 30 → v < 32 → polyStepNat chk v < 2 ^ 30) ∧
  (∀ s : State, field (readValue .chkAcc s) 30 2 = 0#2)

/-- `PolyStep(c ^ c', v ^ v') = PolyStep(c, v) ^ PolyStep(c', v')` (R85). -/
def Obligations.PolyStepIsLinear : Prop :=
  ∀ (c d : Chk) (v u : Sym), polyStep (c ^^^ d) (v ^^^ u) = polyStep c v ^^^ polyStep d u

/-- CHK_STEP steps its value and changes nothing else; a word with OP 0x20 and OPND[23:5] not zero is
ILLEGAL_COMMAND (R77). -/
def Obligations.ChkStepStepsItsValue : Prop :=
  (∀ (s : State) (v : Sym), s.err = false →
    exec (.chkStep v) s = .next { s with chkAcc := polyStep s.chkAcc v }) ∧
  (∀ w : Word, field w 24 8 = 0x20#8 → field w 5 19 = 0#19 → decode w = .ok (.chkStep (field w 0 5))) ∧
  (∀ (w : Word) (s : State), field w 24 8 = 0x20#8 → field w 5 19 ≠ 0#19 → s.err = false →
    execute w s = .next (s.failed .illegalCommand))

/-- CHK_HI steps `c >> 5` and CHK_LO `c & 31`, for every code 0..255, and each changes nothing else; a word with
OPND[23:8] not zero is ILLEGAL_COMMAND (R78, R79). -/
def Obligations.HrpCharacterHalvesAreStepped : Prop :=
  (∀ (s : State) (c : Octet), s.err = false →
    exec (.chkHi c) s = .next { s with chkAcc := polyStep s.chkAcc (BitVec.ofNat 5 (c.toNat / 32)) } ∧
    exec (.chkLo c) s = .next { s with chkAcc := polyStep s.chkAcc (BitVec.ofNat 5 (c.toNat % 32)) }) ∧
  (∀ w : Word, field w 24 8 = 0x21#8 → field w 8 16 = 0#16 → decode w = .ok (.chkHi (field w 0 8))) ∧
  (∀ w : Word, field w 24 8 = 0x22#8 → field w 8 16 = 0#16 → decode w = .ok (.chkLo (field w 0 8))) ∧
  (∀ (w : Word) (s : State), field w 24 8 = 0x21#8 ∨ field w 24 8 = 0x22#8 → field w 8 16 ≠ 0#16 →
    s.err = false → execute w s = .next (s.failed .illegalCommand))

/-- The commands of `chk.hrp` after INIT leave CHK_ACC at the polymod of `hrp_expand`, for every string of 8-bit
codes, and touch nothing else (R80). -/
def Obligations.HrpCommandsStepTheExpansion : Prop :=
  ∀ (s : State) (hrp : List Octet),
    execAll ([Instr.init] ++ hrpCommands hrp) s = .next
      { s.startJob with
        chkAcc := polymod (hrp.map (fun c => BitVec.ofNat 5 (c.toNat / 32)) ++ [0#5]
          ++ hrp.map (fun c => BitVec.ofNat 5 (c.toNat % 32))) }

/-- CHK_CREATE with six entries free steps six zeros, writes `CSUM = CHK_ACC ^ 1` and queues the six digits, most
significant first, without stepping them; with fewer free it raises OUTQ_OVERFLOW before any change (R81). -/
def Obligations.ChkCreateQueuesTheDigits : Prop :=
  decode 0x23000000#32 = .ok .chkCreate ∧
  ∀ s : State, s.err = false →
    let z := polyStep (polyStep (polyStep (polyStep (polyStep (polyStep s.chkAcc 0) 0) 0) 0) 0) 0
    let c := z ^^^ 1#30
    (s.outq.length + 6 ≤ 64 → exec .chkCreate s = .next
      { s with
        chkAcc := z
        csum := c
        outq := s.outq ++ [c.extractLsb' 25 5, c.extractLsb' 20 5, c.extractLsb' 15 5,
          c.extractLsb' 10 5, c.extractLsb' 5 5, c.extractLsb' 0 5] }) ∧
    (64 < s.outq.length + 6 → exec .chkCreate s = .next (s.failed .outqOverflow))

/-- CHK_VERIFY writes CHK_OK and nothing else; a result of 0 is no error (R83). -/
def Obligations.ChkVerifyRecordsTheVerdict : Prop :=
  decode 0x24000000#32 = .ok .chkVerify ∧
  ∀ s : State, s.err = false →
    (s.chkAcc = 1#30 → exec .chkVerify s = .next { s with chkOk := true }) ∧
    (s.chkAcc ≠ 1#30 → exec .chkVerify s = .next { s with chkOk := false })

/-- `Polymod` by its two equations, and CHK_ACC after INIT and any commands of a job that raise no error is the
polymod of the values they step, the words the converter chains with CHAIN = 1 among them, in their order (R82); for
commands of the checksum engine alone these are the commands' own values. -/
def Obligations.ChkAccIsThePolymodOfTheJob : Prop :=
  polymod [] = 1#30 ∧ (∀ (vs : List Sym) (v : Sym), polymod (vs ++ [v]) = polyStep (polymod vs) v) ∧
  ∀ (s t : State) (is : List Instr), (∀ i ∈ is, i ≠ .init) →
    execAll ([Instr.init] ++ is) s = .next t → t.err = false →
      t.chkAcc = polymod (jobSteps is s.startJob) ∧
      ((∀ i ∈ is, i ≠ .cvtFlush ∧ ∀ v, i ≠ .cvtPush v) → t.chkAcc = polymod (is.flatMap steppedBy))

/-- With CHAIN = 1 CHK_ACC takes exactly the words a converter command queues, in the order the host will read
them; with CHAIN = 0 it takes none (R69, R73, R82). -/
def Obligations.ChainedWordsAreStepped : Prop :=
  ∀ (i : Instr) (s t : State), (i = .cvtFlush ∨ ∃ v, i = .cvtPush v) → exec i s = .next t →
    ∃ ws, t.outq = s.outq ++ ws ∧ ws.length ≤ 3 ∧
      t.chkAcc = if s.chain then polySteps s.chkAcc ws else s.chkAcc

/-- A created checksum verifies: the polymod of the values and their six digits is 1, and on the machine a later
job that steps the values and the queued digits sets CHK_OK (R85). -/
def Obligations.CreatedChecksumVerifies : Prop :=
  (∀ vs : List Sym, polymod (vs ++ checksumOf vs) = 1#30) ∧
  ∀ (s u : State) (vs : List Sym),
    ∃ t, execAll ([Instr.init] ++ vs.map Instr.chkStep ++ [Instr.chkCreate]) s = .next t ∧ t.outq.length = 6 ∧
      ∃ r, execAll ([Instr.init] ++ (vs ++ t.outq).map Instr.chkStep ++ [Instr.chkVerify]) u = .next r ∧
        r.chkOk = true ∧ r.err = false

/-! ### Errors -/

/-- The checks come in R99's order and the first that fails is the one raised; a command whose checks all pass
raises nothing; with ERR = 1 a word other than INIT is ignored (R99). -/
def Obligations.ChecksComeInOrder : Prop :=
  ∀ (w : Word) (s : State), s.Inv →
    (s.err = true → w ≠ 0x01000000#32 → execute w s = .next s) ∧
    (s.err = false → ∀ e, firstError w s = some e → execute w s = .next (s.failed e)) ∧
    (s.err = false → firstError w s = none → ∃ t, execute w s = .next t ∧ t.err = false ∧ t.ecode = .none)

/-- Errors are precise: a word that raises an error changes ERR and ECODE and nothing else (R97). -/
def Obligations.ErrorsArePrecise : Prop :=
  ∀ (w : Word) (s t : State), s.err = false → execute w s = .next t → t.err = true →
    t.ecode ≠ .none ∧ t = { s with err := true, ecode := t.ecode }

/-- Errors are sticky (R98): with ERR = 1 a CMD write of any other word than 0x01000000 completes without effect,
that word clears the error, every register but DOUT still reads its value, DOUT still pops, and CTRL is still
written. -/
def Obligations.ErrorsAreSticky : Prop :=
  ∀ (s : State) (es : List HostEvent), s.err = true →
    (∀ w, w ≠ 0x01000000#32 → s.pending = wrCmd w :: es →
      step s = .next { s with pending := es, history := ⟨wrCmd w, some .ok, s.err⟩ :: s.history }) ∧
    (s.pending = wrCmd 0x01000000#32 :: es →
      ∃ t, step s = .next t ∧ t.err = false ∧ t.ecode = .none) ∧
    (∀ off r, registerAt off = some r → r ≠ .dout → s.pending = rd off :: es →
      step s = .next { s with pending := es, history := ⟨rd off, some (.data (readValue r s)), s.err⟩ :: s.history }) ∧
    (s.pending = rd 0x10 :: es →
      step s = .next
        { s with
          pending := es
          outq := s.outq.tail
          history := ⟨rd 0x10, some (.data (doutWord s.outq)), s.err⟩ :: s.history }) ∧
    (∀ d, s.pending = wr 0x04 d :: es →
      step s = .next
        { s with
          pending := es
          pad := d.getLsbD 0
          chain := d.getLsbD 1
          history := ⟨wr 0x04 d, some .ok, s.err⟩ :: s.history })

/-- ERR is cleared only by INIT or reset (R109): a step from ERR = 1 to ERR = 0 handled one of them. -/
def Obligations.OnlyInitAndResetClearErr : Prop :=
  ∀ s t : State, s.err = true → step s = .next t → t.err = false →
    ∃ e es, s.pending = e :: es ∧ e.startsJob = true

/-! ### Who writes what -/

/-- Each element is written only by the commands whose rules list it as written (R10, R12 to R18; for NBITS, OUTQ, ERR
and ECODE R62, R64, R67, R70, R71, R81 and the table of R96), and PAD and CHAIN by none (R18). That no command touches
the coming events and the record of the past says that those fields are the host's, not the block's (the model's
choice: log entries 4 and 6). -/
def Obligations.OnlyNamedCommandsWriteAnElement : Prop :=
  ∀ (i : Instr) (s t : State), exec i s = .next t →
    (t.acc ≠ s.acc → i = .init ∨ ∃ v, i = .cvtPush v) ∧
    (t.nbits ≠ s.nbits → i = .init ∨ i = .cvtFlush ∨ ∃ v, i = .cvtPush v) ∧
    (t.cvtDone ≠ s.cvtDone → i = .init ∨ i = .cvtFlush) ∧
    (t.outq ≠ s.outq → i = .init ∨ i = .cvtFlush ∨ i = .chkCreate ∨ ∃ v, i = .cvtPush v) ∧
    (t.chkAcc ≠ s.chkAcc → i = .init ∨ i = .chkCreate ∨ (∃ v, i = .chkStep v) ∨ (∃ c, i = .chkHi c) ∨
      (∃ c, i = .chkLo c) ∨ (s.chain = true ∧ (i = .cvtFlush ∨ ∃ v, i = .cvtPush v))) ∧
    (t.csum ≠ s.csum → i = .init ∨ i = .chkCreate) ∧
    (t.chkOk ≠ s.chkOk → i = .init ∨ i = .chkVerify) ∧
    ((t.err ≠ s.err ∨ t.ecode ≠ s.ecode) →
      i = .init ∨ i = .cvtFlush ∨ i = .chkCreate ∨ ∃ v, i = .cvtPush v) ∧
    t.pad = s.pad ∧ t.chain = s.chain ∧ t.pending = s.pending ∧ t.history = s.history

/-- Over every kind of event, PAD and CHAIN change only by a write of CTRL or a reset (R18). -/
def Obligations.OnlyTheHostWritesCtrl : Prop :=
  ∀ (s t : State) (e : HostEvent) (es : List HostEvent), s.pending = e :: es → step s = .next t →
    (t.pad ≠ s.pad ∨ t.chain ≠ s.chain) →
      (∃ d, e = wr 0x04 d) ∨ e = .reset ∨ ∃ a, e = .resetDuring a

/-- OUTQ is first in, first out (R13): a step empties it (INIT or reset), appends to its tail, or takes its head
and answers with it. -/
def Obligations.QueueIsFirstInFirstOut : Prop :=
  ∀ s t : State, step s = .next t →
    (t.outq = [] ∧ ∃ e es, s.pending = e :: es ∧ e.startsJob = true) ∨
    (∃ ws, t.outq = s.outq ++ ws) ∨
    (∃ w e, s.outq = w :: t.outq ∧
      t.history = ⟨e, some (.data (0x80000000#32 ||| w.setWidth 32)), s.err⟩ :: s.history)

/-- What a job gives depends only on its commands and CTRL: two runs that start with INIT and agree in PAD and
CHAIN end in the same block state, whatever went before (R64). -/
def Obligations.JobsDependOnlyOnTheirCommands : Prop :=
  ∀ (is : List Instr) (s u t r : State), s.pad = u.pad → s.chain = u.chain →
    execAll ([Instr.init] ++ is) s = .next t → execAll ([Instr.init] ++ is) u = .next r →
      r = { t with pending := u.pending, history := u.history }

/-! ### The registers -/

/-- ID reads 0xB32C0001 in every state (R88). -/
def Obligations.IdReadsItsConstant : Prop := ReadsAs 0x00 (fun _ => 0xB32C0001#32)

/-- CTRL (R89): a read gives PAD in bit 0 and CHAIN in bit 1, a write takes those two bits and changes nothing
else, with ERR = 1 as with ERR = 0. -/
def Obligations.CtrlReadsAndWritesPadAndChain : Prop :=
  ReadsAs 0x04 (fun s => BitVec.ofNat 32 (2 * s.chain.toNat + s.pad.toNat)) ∧
  ∀ (s : State) (es : List HostEvent) (d : Word), s.pending = wr 0x04 d :: es →
    step s = .next
      { s with
        pending := es
        pad := d.getLsbD 0
        chain := d.getLsbD 1
        history := ⟨wr 0x04 d, some .ok, s.err⟩ :: s.history }

/-- The fields of STATUS and its reserved bits (R24), with the code numbers of R96; reading it changes nothing. -/
def Obligations.StatusShowsItsFields : Prop :=
  ReadsAs 0x08 statusWord ∧
  ∀ s : State, s.outq.length ≤ 64 →
    field (statusWord s) 0 1 = BitVec.ofBool s.err ∧
    field (statusWord s) 1 3 = 0#3 ∧
    field (statusWord s) 4 4 = (match s.ecode with
      | .none => 0#4
      | .valueOutOfRange => 1#4
      | .malformedPadding => 2#4
      | .illegalCommand => 3#4
      | .outqOverflow => 4#4
      | .sequence => 5#4) ∧
    field (statusWord s) 8 1 = BitVec.ofBool s.cvtDone ∧
    field (statusWord s) 9 1 = BitVec.ofBool s.chkOk ∧
    field (statusWord s) 10 6 = 0#6 ∧
    (field (statusWord s) 16 7).toNat = s.outq.length ∧
    field (statusWord s) 23 9 = 0#9

/-- DOUT (R92): a read of an empty queue answers 0 and changes nothing, a read of any other answers VALID and the
head and removes it, whatever ERR is; a write is ignored. -/
def Obligations.DoutTakesTheHead : Prop :=
  (∀ (s : State) (es : List HostEvent), s.pending = rd 0x10 :: es →
    (s.outq = [] →
      step s = .next { s with pending := es, history := ⟨rd 0x10, some (.data 0x00000000#32), s.err⟩ :: s.history }) ∧
    (∀ w ws, s.outq = w :: ws →
      step s = .next
        { s with
          pending := es
          outq := ws
          history := ⟨rd 0x10, some (.data (0x80000000#32 ||| w.setWidth 32)), s.err⟩ :: s.history })) ∧
  WriteIgnored 0x10

/-- CVT_STATE, CHK_ACC, CSUM and GEN0 to GEN4 read as R27 to R30 lay them out, without side effect (R93). -/
def Obligations.ObservationRegistersRead : Prop :=
  ReadsAs 0x14 (fun s => BitVec.ofNat 32 (s.nbits.toNat * 2 ^ 16 + s.acc.toNat)) ∧
  ReadsAs 0x18 (fun s => BitVec.ofNat 32 s.chkAcc.toNat) ∧
  ReadsAs 0x1C (fun s => BitVec.ofNat 32 s.csum.toNat) ∧
  ReadsAs 0x20 (fun _ => 0x3B6A57B2#32) ∧
  ReadsAs 0x24 (fun _ => 0x26508E6D#32) ∧
  ReadsAs 0x28 (fun _ => 0x1EA119FA#32) ∧
  ReadsAs 0x2C (fun _ => 0x3D4233DD#32) ∧
  ReadsAs 0x30 (fun _ => 0x2A1462B3#32)

/-- CMD and the reserved offsets read 0; writes of the read-only and reserved registers and of DOUT complete and
are ignored (R25, R31, R40). -/
def Obligations.ZeroReadsAndIgnoredWrites : Prop :=
  (∀ off ∈ [0x0C, 0x34, 0x38, 0x3C], ReadsAs off (fun _ => 0x00000000#32)) ∧
  (∀ off ∈ [0x00, 0x08, 0x10, 0x14, 0x18, 0x1C, 0x20, 0x24, 0x28, 0x2C, 0x30, 0x34, 0x38, 0x3C], WriteIgnored off)

/-- Only a CMD write, a CTRL write and a DOUT read change anything but the record of the past; a second read of
another register with no write between gives the same value (R41). The second clause takes in refused reads too: that
two refused accesses are reported alike is the model's choice (log entry 3, unsafe for that claim). -/
def Obligations.OnlyThreeAccessesHaveEffects : Prop :=
  (∀ (a : Access) (s t : State), access a s = .next t →
    ¬ (a.size = 4 ∧ (a.kind = .write ∧ (a.off = 0x0C ∨ a.off = 0x04) ∨ a.kind = .read ∧ a.off = 0x10)) →
      t = { s with history := t.history }) ∧
  (∀ (a b : Access) (s t u : State) (x y : Reply), a.kind = .read → a.off ≠ 0x10 → b.kind = .read →
    b.off = a.off → b.size = a.size → access a s = .next t → access b t = .next u →
    t.history = ⟨.access a, some x, s.err⟩ :: s.history → u.history = ⟨.access b, some y, t.err⟩ :: t.history →
      x = y)

/-- Any other access inside the window is refused: nothing of the block changes, ERR included, and the host gets
the platform's response (R37). -/
def Obligations.OtherAccessesAreRefused : Prop :=
  ∀ (a : Access) (s : State), 0 ≤ a.off → a.off < 64 → (a.size ≠ 4 ∨ a.off % 4 ≠ 0) →
    access a s = .next
      { s with history := ⟨.access a, some (.busError Config.busErrorResponse), s.err⟩ :: s.history }

/-- The window is selected by `addr[top:6] == BASE[top:6]` and the offset is `addr[5:0]`, BASE being a multiple of
64 (R35). -/
def Obligations.AddressSelectsTheWindow : Prop :=
  Config.base % 64 = 0 ∧
  ∀ (addr n : Nat) (v : Word), ∃ a b, memRead addr n = .access a ∧ memWrite addr n v = .access b ∧
    (a.inWindow = true ↔ addr / 64 = Config.base / 64) ∧
    (b.inWindow = true ↔ addr / 64 = Config.base / 64) ∧
    (addr / 64 = Config.base / 64 → a.off = (addr % 64 : Nat) ∧ b.off = (addr % 64 : Nat))

/-- The block responds to nothing outside its window (R34; which address decides is the model's reading: log
entry 2). -/
def Obligations.NoResponseOutsideTheWindow : Prop :=
  ∀ (a : Access) (s : State), (a.off < 0 ∨ 64 ≤ a.off) →
    access a s = .next { s with history := ⟨.access a, none, s.err⟩ :: s.history }

/-! ### Reset, order and invariants -/

/-- Reset gives every element the value of R32, whatever the state, and an access that a reset cuts off has no
effect (R115); State.reset has those values. That the coming events and the record of the past outlive a reset and
that neither it nor the access it cuts off is answered is the model's choice (log entry 13, unsafe for the answer to
that access), and so is that the two fields start empty (log entries 4 and 6). -/
def Obligations.ResetGivesEveryElement : Prop :=
  (∀ (s : State) (e : HostEvent) (es : List HostEvent), (e = .reset ∨ ∃ a, e = .resetDuring a) →
    s.pending = e :: es → step s = .next
      { acc := 0#12, nbits := 0#4, cvtDone := false, outq := [], chkAcc := 1#30, csum := 0#30, chkOk := false,
        err := false, ecode := .none, pad := true, chain := false, pending := es,
        history := ⟨e, none, false⟩ :: s.history }) ∧
  State.reset =
    { acc := 0#12, nbits := 0#4, cvtDone := false, outq := [], chkAcc := 1#30, csum := 0#30, chkOk := false,
      err := false, ecode := .none, pad := true, chain := false, pending := [], history := [] }

/-- The invariant holds at reset (R11, R13, R17). -/
def Obligations.ResetMeetsTheInvariant : Prop := State.reset.Inv

/-- Every step keeps the invariant: NBITS in 0..4, OUTQ within 64 entries, ECODE 0 exactly while ERR is 0, and no
buffered bits after a flush (R11, R13, R17, R72). -/
def Obligations.StepKeepsTheInvariant : Prop :=
  ∀ s t : State, s.Inv → step s = .next t → t.Inv

/-- Every accepted access completes with its answer and none is held: from every state, as many steps as there are
events handle them all, one each, in arrival order; an accepted read is answered with a value, an accepted write with
OK, any other access of the window with the platform's response (R37, R43, R87). Events that are no access of the
window are handled and recorded too, without an answer (log entries 2 and 13), and the events and the record outlive a
reset (log entry 13). -/
def Obligations.EventsCompleteInOrder : Prop :=
  ∀ (s : State) (es rest : List HostEvent), s.pending = es ++ rest →
    ∃ (t : State) (done : List Handled), Host.Core.run core es.length s = .next t ∧ t.pending = rest ∧
      t.history = done.reverse ++ s.history ∧ done.map Handled.event = es ∧
      ∀ h ∈ done, ∀ a, h.event = .access a →
        (a.inWindow = true → a.size = 4 → a.off % 4 = 0 → a.kind = .read → ∃ v, h.reply = some (.data v)) ∧
        (a.inWindow = true → a.size = 4 → a.off % 4 = 0 → a.kind = .write → h.reply = some .ok) ∧
        (a.inWindow = true → (a.size ≠ 4 ∨ a.off % 4 ≠ 0) →
          h.reply = some (.busError Config.busErrorResponse)) ∧
        (a.inWindow = false → h.reply = none)

/-- No run ever stops, from any state (R53, R87). -/
def Obligations.RunsNeverStop : Prop := ∀ s : State, s.Safe

/-! ### The encode job -/

/-- The commands of the canonical encode job with PAD = CHAIN = 1, for every prefix and every payload that fits
OUTQ, end without error, the flush done, with the data words of the bit stream followed by the checksum of
`hrp_expand(hrp) ++ data` queued (R39, R80 to R82, R117). -/
def Obligations.EncodeCommandsQueueTheEncoding : Prop :=
  ∀ (s : State) (hrp bs : List Octet), s.pad = true → s.chain = true → wordCount bs.length + 6 ≤ 64 →
    ∃ t, execAll (encodeCommands hrp bs) s = .next t ∧ t.err = false ∧ t.cvtDone = true ∧
      t.outq = dataWords bs ++ checksumOf (hrpExpand hrp ++ dataWords bs)

/-- The host's canonical encode job, from any state, ends complete and with that encoding as its result (R117,
R118; what a job's values are and how its completeness is read is the model's reading of R118: log entry 18). -/
def Obligations.CanonicalJobResultIsTheEncoding : Prop :=
  ∀ (s : State) (hrp bs : List Octet) (rest : List HostEvent), wordCount bs.length + 6 ≤ 64 →
    s.pending = canonicalJob hrp bs ++ rest →
      ∃ t, Host.Core.run core (canonicalJob hrp bs).length s = .next t ∧ t.pending = rest ∧
        t.encodeComplete = true ∧
        t.jobResult = .words (dataWords bs ++ checksumOf (hrpExpand hrp ++ dataWords bs))

/-! ### The assembler -/

/-- The pseudo-instructions in full (R59, R60): `chk.hrp` of an ASCII string is CHK_HI of each character, CHK_STEP 0
and CHK_LO of each; `chk.sep` is CHK_STEP 0; `cvt.bytes` is one CVT_PUSH per value, in order; `cvt.hex` of two digits
per byte, the first the high nibble, is one CVT_PUSH per byte, and it refuses an odd number of digits and a character
that is no hexadecimal digit. (That a digit may be of either
case, a string must be ASCII and a value of `cvt.bytes` may be any `cvt.push` accepts: log entry 15.) -/
def Obligations.AssemblerExpandsPseudoInstructions : Prop :=
  (∀ cs : List Char, (∀ c ∈ cs, c.toNat ≤ 127) →
    Assembler.statement "chk.hrp".toList [.str cs] =
      .ok (cs.map (fun c => wrCmd (BitVec.ofNat 32 (0x21000000 + c.toNat))) ++ [wrCmd 0x20000000#32]
        ++ cs.map (fun c => wrCmd (BitVec.ofNat 32 (0x22000000 + c.toNat))))) ∧
  Assembler.statement "chk.sep".toList [] = .ok [wrCmd 0x20000000#32] ∧
  (∀ vs : List (List Char × Nat), (∀ x ∈ vs, Assembler.number x.1 = some x.2 ∧ x.2 ≤ 0xFFFFFF) →
    Assembler.statement "cvt.bytes".toList ((vs.map fun x => Assembler.Token.text x.1).intersperse .comma) =
      .ok (vs.map fun x => wrCmd (BitVec.ofNat 32 (0x10000000 + x.2)))) ∧
  (let hex (n : Fin 16) : Char :=
    ['0', '1', '2', '3', '4', '5', '6', '7', '8', '9', 'a', 'b', 'c', 'd', 'e', 'f'].getD n.val '0'
   ∀ bytes : List (Fin 16 × Fin 16),
    Assembler.statement "cvt.hex".toList [.str (bytes.flatMap fun b => [hex b.1, hex b.2])] =
      .ok (bytes.map fun b => wrCmd (BitVec.ofNat 32 (0x10000000 + 16 * b.1.val + b.2.val)))) ∧
  (∀ cs : List Char, cs.length % 2 = 1 → Assembler.statement "cvt.hex".toList [.str cs] = .error .invalidHex) ∧
  (∀ (cs : List Char) (c : Char), c ∈ cs →
    c ∉ ['0', '1', '2', '3', '4', '5', '6', '7', '8', '9', 'a', 'b', 'c', 'd', 'e', 'f',
      'A', 'B', 'C', 'D', 'E', 'F'] →
      Assembler.statement "cvt.hex".toList [.str cs] = .error .invalidHex)

/-! ### When an encode job is complete -/

/-- An encode job becomes complete when its CHK_CREATE executes without error after its CVT_FLUSH has, or its CVT_FLUSH
after its CHK_CREATE, and stays complete until INIT or a reset, whatever fails later; a job that has failed has its
failure as its result all the same (R118; completeness is read from the model's record: log entries 6 and 18). -/
def Obligations.EncodeCompletionOutlivesLaterErrors : Prop :=
  (∀ (s t : State) (w v : Word), (w = 0x11000000#32 ∧ v = 0x23000000#32 ∨ w = 0x23000000#32 ∧ v = 0x11000000#32) →
    (∃ es, s.pending = wrCmd v :: es) → s.jobHistory.any (Handled.ranWithoutError w) = true →
      step s = .next t → t.err = false → t.encodeComplete = true) ∧
  (∀ (s t : State) (e : HostEvent) (es : List HostEvent), s.encodeComplete = true → s.pending = e :: es →
    e.startsJob = false → step s = .next t → t.encodeComplete = true) ∧
  (∀ s : State, s.err = true → s.jobResult = .failure s.ecode)
end

