-- ==== Sys2Proof/Laws/State.lean ====
section
/-!
SUPPORT. One lemma per field per named update of the state: what the update leaves in the field. Later proofs
cite these and unfold no record update.
-/

namespace Sys2Proof.Machine.State

variable (s : State)

/-! ### setAcc -/

@[simp] theorem setAcc_acc (v : BitVec 12) : (s.setAcc v).acc = v := rfl
@[simp] theorem setAcc_nbits (v : BitVec 12) : (s.setAcc v).nbits = s.nbits := rfl
@[simp] theorem setAcc_cvtDone (v : BitVec 12) : (s.setAcc v).cvtDone = s.cvtDone := rfl
@[simp] theorem setAcc_outq (v : BitVec 12) : (s.setAcc v).outq = s.outq := rfl
@[simp] theorem setAcc_chkAcc (v : BitVec 12) : (s.setAcc v).chkAcc = s.chkAcc := rfl
@[simp] theorem setAcc_csum (v : BitVec 12) : (s.setAcc v).csum = s.csum := rfl
@[simp] theorem setAcc_chkOk (v : BitVec 12) : (s.setAcc v).chkOk = s.chkOk := rfl
@[simp] theorem setAcc_err (v : BitVec 12) : (s.setAcc v).err = s.err := rfl
@[simp] theorem setAcc_ecode (v : BitVec 12) : (s.setAcc v).ecode = s.ecode := rfl
@[simp] theorem setAcc_pad (v : BitVec 12) : (s.setAcc v).pad = s.pad := rfl
@[simp] theorem setAcc_chain (v : BitVec 12) : (s.setAcc v).chain = s.chain := rfl
@[simp] theorem setAcc_pending (v : BitVec 12) : (s.setAcc v).pending = s.pending := rfl
@[simp] theorem setAcc_history (v : BitVec 12) : (s.setAcc v).history = s.history := rfl

/-! ### setNbits -/

@[simp] theorem setNbits_acc (v : BitVec 4) : (s.setNbits v).acc = s.acc := rfl
@[simp] theorem setNbits_nbits (v : BitVec 4) : (s.setNbits v).nbits = v := rfl
@[simp] theorem setNbits_cvtDone (v : BitVec 4) : (s.setNbits v).cvtDone = s.cvtDone := rfl
@[simp] theorem setNbits_outq (v : BitVec 4) : (s.setNbits v).outq = s.outq := rfl
@[simp] theorem setNbits_chkAcc (v : BitVec 4) : (s.setNbits v).chkAcc = s.chkAcc := rfl
@[simp] theorem setNbits_csum (v : BitVec 4) : (s.setNbits v).csum = s.csum := rfl
@[simp] theorem setNbits_chkOk (v : BitVec 4) : (s.setNbits v).chkOk = s.chkOk := rfl
@[simp] theorem setNbits_err (v : BitVec 4) : (s.setNbits v).err = s.err := rfl
@[simp] theorem setNbits_ecode (v : BitVec 4) : (s.setNbits v).ecode = s.ecode := rfl
@[simp] theorem setNbits_pad (v : BitVec 4) : (s.setNbits v).pad = s.pad := rfl
@[simp] theorem setNbits_chain (v : BitVec 4) : (s.setNbits v).chain = s.chain := rfl
@[simp] theorem setNbits_pending (v : BitVec 4) : (s.setNbits v).pending = s.pending := rfl
@[simp] theorem setNbits_history (v : BitVec 4) : (s.setNbits v).history = s.history := rfl

/-! ### markFlushed -/

@[simp] theorem markFlushed_acc : (s.markFlushed).acc = s.acc := rfl
@[simp] theorem markFlushed_nbits : (s.markFlushed).nbits = s.nbits := rfl
@[simp] theorem markFlushed_cvtDone : (s.markFlushed).cvtDone = true := rfl
@[simp] theorem markFlushed_outq : (s.markFlushed).outq = s.outq := rfl
@[simp] theorem markFlushed_chkAcc : (s.markFlushed).chkAcc = s.chkAcc := rfl
@[simp] theorem markFlushed_csum : (s.markFlushed).csum = s.csum := rfl
@[simp] theorem markFlushed_chkOk : (s.markFlushed).chkOk = s.chkOk := rfl
@[simp] theorem markFlushed_err : (s.markFlushed).err = s.err := rfl
@[simp] theorem markFlushed_ecode : (s.markFlushed).ecode = s.ecode := rfl
@[simp] theorem markFlushed_pad : (s.markFlushed).pad = s.pad := rfl
@[simp] theorem markFlushed_chain : (s.markFlushed).chain = s.chain := rfl
@[simp] theorem markFlushed_pending : (s.markFlushed).pending = s.pending := rfl
@[simp] theorem markFlushed_history : (s.markFlushed).history = s.history := rfl

/-! ### setOutq -/

@[simp] theorem setOutq_acc (q : List Sym) : (s.setOutq q).acc = s.acc := rfl
@[simp] theorem setOutq_nbits (q : List Sym) : (s.setOutq q).nbits = s.nbits := rfl
@[simp] theorem setOutq_cvtDone (q : List Sym) : (s.setOutq q).cvtDone = s.cvtDone := rfl
@[simp] theorem setOutq_outq (q : List Sym) : (s.setOutq q).outq = q := rfl
@[simp] theorem setOutq_chkAcc (q : List Sym) : (s.setOutq q).chkAcc = s.chkAcc := rfl
@[simp] theorem setOutq_csum (q : List Sym) : (s.setOutq q).csum = s.csum := rfl
@[simp] theorem setOutq_chkOk (q : List Sym) : (s.setOutq q).chkOk = s.chkOk := rfl
@[simp] theorem setOutq_err (q : List Sym) : (s.setOutq q).err = s.err := rfl
@[simp] theorem setOutq_ecode (q : List Sym) : (s.setOutq q).ecode = s.ecode := rfl
@[simp] theorem setOutq_pad (q : List Sym) : (s.setOutq q).pad = s.pad := rfl
@[simp] theorem setOutq_chain (q : List Sym) : (s.setOutq q).chain = s.chain := rfl
@[simp] theorem setOutq_pending (q : List Sym) : (s.setOutq q).pending = s.pending := rfl
@[simp] theorem setOutq_history (q : List Sym) : (s.setOutq q).history = s.history := rfl

/-! ### setChkAcc -/

@[simp] theorem setChkAcc_acc (c : Chk) : (s.setChkAcc c).acc = s.acc := rfl
@[simp] theorem setChkAcc_nbits (c : Chk) : (s.setChkAcc c).nbits = s.nbits := rfl
@[simp] theorem setChkAcc_cvtDone (c : Chk) : (s.setChkAcc c).cvtDone = s.cvtDone := rfl
@[simp] theorem setChkAcc_outq (c : Chk) : (s.setChkAcc c).outq = s.outq := rfl
@[simp] theorem setChkAcc_chkAcc (c : Chk) : (s.setChkAcc c).chkAcc = c := rfl
@[simp] theorem setChkAcc_csum (c : Chk) : (s.setChkAcc c).csum = s.csum := rfl
@[simp] theorem setChkAcc_chkOk (c : Chk) : (s.setChkAcc c).chkOk = s.chkOk := rfl
@[simp] theorem setChkAcc_err (c : Chk) : (s.setChkAcc c).err = s.err := rfl
@[simp] theorem setChkAcc_ecode (c : Chk) : (s.setChkAcc c).ecode = s.ecode := rfl
@[simp] theorem setChkAcc_pad (c : Chk) : (s.setChkAcc c).pad = s.pad := rfl
@[simp] theorem setChkAcc_chain (c : Chk) : (s.setChkAcc c).chain = s.chain := rfl
@[simp] theorem setChkAcc_pending (c : Chk) : (s.setChkAcc c).pending = s.pending := rfl
@[simp] theorem setChkAcc_history (c : Chk) : (s.setChkAcc c).history = s.history := rfl

/-! ### setCsum -/

@[simp] theorem setCsum_acc (c : Chk) : (s.setCsum c).acc = s.acc := rfl
@[simp] theorem setCsum_nbits (c : Chk) : (s.setCsum c).nbits = s.nbits := rfl
@[simp] theorem setCsum_cvtDone (c : Chk) : (s.setCsum c).cvtDone = s.cvtDone := rfl
@[simp] theorem setCsum_outq (c : Chk) : (s.setCsum c).outq = s.outq := rfl
@[simp] theorem setCsum_chkAcc (c : Chk) : (s.setCsum c).chkAcc = s.chkAcc := rfl
@[simp] theorem setCsum_csum (c : Chk) : (s.setCsum c).csum = c := rfl
@[simp] theorem setCsum_chkOk (c : Chk) : (s.setCsum c).chkOk = s.chkOk := rfl
@[simp] theorem setCsum_err (c : Chk) : (s.setCsum c).err = s.err := rfl
@[simp] theorem setCsum_ecode (c : Chk) : (s.setCsum c).ecode = s.ecode := rfl
@[simp] theorem setCsum_pad (c : Chk) : (s.setCsum c).pad = s.pad := rfl
@[simp] theorem setCsum_chain (c : Chk) : (s.setCsum c).chain = s.chain := rfl
@[simp] theorem setCsum_pending (c : Chk) : (s.setCsum c).pending = s.pending := rfl
@[simp] theorem setCsum_history (c : Chk) : (s.setCsum c).history = s.history := rfl

/-! ### setChkOk -/

@[simp] theorem setChkOk_acc (b : Bool) : (s.setChkOk b).acc = s.acc := rfl
@[simp] theorem setChkOk_nbits (b : Bool) : (s.setChkOk b).nbits = s.nbits := rfl
@[simp] theorem setChkOk_cvtDone (b : Bool) : (s.setChkOk b).cvtDone = s.cvtDone := rfl
@[simp] theorem setChkOk_outq (b : Bool) : (s.setChkOk b).outq = s.outq := rfl
@[simp] theorem setChkOk_chkAcc (b : Bool) : (s.setChkOk b).chkAcc = s.chkAcc := rfl
@[simp] theorem setChkOk_csum (b : Bool) : (s.setChkOk b).csum = s.csum := rfl
@[simp] theorem setChkOk_chkOk (b : Bool) : (s.setChkOk b).chkOk = b := rfl
@[simp] theorem setChkOk_err (b : Bool) : (s.setChkOk b).err = s.err := rfl
@[simp] theorem setChkOk_ecode (b : Bool) : (s.setChkOk b).ecode = s.ecode := rfl
@[simp] theorem setChkOk_pad (b : Bool) : (s.setChkOk b).pad = s.pad := rfl
@[simp] theorem setChkOk_chain (b : Bool) : (s.setChkOk b).chain = s.chain := rfl
@[simp] theorem setChkOk_pending (b : Bool) : (s.setChkOk b).pending = s.pending := rfl
@[simp] theorem setChkOk_history (b : Bool) : (s.setChkOk b).history = s.history := rfl

/-! ### setCtrl -/

@[simp] theorem setCtrl_acc (p c : Bool) : (s.setCtrl p c).acc = s.acc := rfl
@[simp] theorem setCtrl_nbits (p c : Bool) : (s.setCtrl p c).nbits = s.nbits := rfl
@[simp] theorem setCtrl_cvtDone (p c : Bool) : (s.setCtrl p c).cvtDone = s.cvtDone := rfl
@[simp] theorem setCtrl_outq (p c : Bool) : (s.setCtrl p c).outq = s.outq := rfl
@[simp] theorem setCtrl_chkAcc (p c : Bool) : (s.setCtrl p c).chkAcc = s.chkAcc := rfl
@[simp] theorem setCtrl_csum (p c : Bool) : (s.setCtrl p c).csum = s.csum := rfl
@[simp] theorem setCtrl_chkOk (p c : Bool) : (s.setCtrl p c).chkOk = s.chkOk := rfl
@[simp] theorem setCtrl_err (p c : Bool) : (s.setCtrl p c).err = s.err := rfl
@[simp] theorem setCtrl_ecode (p c : Bool) : (s.setCtrl p c).ecode = s.ecode := rfl
@[simp] theorem setCtrl_pad (p c : Bool) : (s.setCtrl p c).pad = p := rfl
@[simp] theorem setCtrl_chain (p c : Bool) : (s.setCtrl p c).chain = c := rfl
@[simp] theorem setCtrl_pending (p c : Bool) : (s.setCtrl p c).pending = s.pending := rfl
@[simp] theorem setCtrl_history (p c : Bool) : (s.setCtrl p c).history = s.history := rfl

/-! ### setPending -/

@[simp] theorem setPending_acc (es : List HostEvent) : (s.setPending es).acc = s.acc := rfl
@[simp] theorem setPending_nbits (es : List HostEvent) : (s.setPending es).nbits = s.nbits := rfl
@[simp] theorem setPending_cvtDone (es : List HostEvent) : (s.setPending es).cvtDone = s.cvtDone := rfl
@[simp] theorem setPending_outq (es : List HostEvent) : (s.setPending es).outq = s.outq := rfl
@[simp] theorem setPending_chkAcc (es : List HostEvent) : (s.setPending es).chkAcc = s.chkAcc := rfl
@[simp] theorem setPending_csum (es : List HostEvent) : (s.setPending es).csum = s.csum := rfl
@[simp] theorem setPending_chkOk (es : List HostEvent) : (s.setPending es).chkOk = s.chkOk := rfl
@[simp] theorem setPending_err (es : List HostEvent) : (s.setPending es).err = s.err := rfl
@[simp] theorem setPending_ecode (es : List HostEvent) : (s.setPending es).ecode = s.ecode := rfl
@[simp] theorem setPending_pad (es : List HostEvent) : (s.setPending es).pad = s.pad := rfl
@[simp] theorem setPending_chain (es : List HostEvent) : (s.setPending es).chain = s.chain := rfl
@[simp] theorem setPending_pending (es : List HostEvent) : (s.setPending es).pending = es := rfl
@[simp] theorem setPending_history (es : List HostEvent) : (s.setPending es).history = s.history := rfl

/-! ### record -/

@[simp] theorem record_acc (e : HostEvent) (r : Option Reply) : (s.record e r).acc = s.acc := rfl
@[simp] theorem record_nbits (e : HostEvent) (r : Option Reply) : (s.record e r).nbits = s.nbits := rfl
@[simp] theorem record_cvtDone (e : HostEvent) (r : Option Reply) : (s.record e r).cvtDone = s.cvtDone := rfl
@[simp] theorem record_outq (e : HostEvent) (r : Option Reply) : (s.record e r).outq = s.outq := rfl
@[simp] theorem record_chkAcc (e : HostEvent) (r : Option Reply) : (s.record e r).chkAcc = s.chkAcc := rfl
@[simp] theorem record_csum (e : HostEvent) (r : Option Reply) : (s.record e r).csum = s.csum := rfl
@[simp] theorem record_chkOk (e : HostEvent) (r : Option Reply) : (s.record e r).chkOk = s.chkOk := rfl
@[simp] theorem record_err (e : HostEvent) (r : Option Reply) : (s.record e r).err = s.err := rfl
@[simp] theorem record_ecode (e : HostEvent) (r : Option Reply) : (s.record e r).ecode = s.ecode := rfl
@[simp] theorem record_pad (e : HostEvent) (r : Option Reply) : (s.record e r).pad = s.pad := rfl
@[simp] theorem record_chain (e : HostEvent) (r : Option Reply) : (s.record e r).chain = s.chain := rfl
@[simp] theorem record_pending (e : HostEvent) (r : Option Reply) : (s.record e r).pending = s.pending := rfl
@[simp] theorem record_history (e : HostEvent) (r : Option Reply) : (s.record e r).history = ⟨e, r, s.err⟩ :: s.history := rfl

/-! ### raise -/

@[simp] theorem raise_acc (e : ECode) : (s.raise e).acc = s.acc := rfl
@[simp] theorem raise_nbits (e : ECode) : (s.raise e).nbits = s.nbits := rfl
@[simp] theorem raise_cvtDone (e : ECode) : (s.raise e).cvtDone = s.cvtDone := rfl
@[simp] theorem raise_outq (e : ECode) : (s.raise e).outq = s.outq := rfl
@[simp] theorem raise_chkAcc (e : ECode) : (s.raise e).chkAcc = s.chkAcc := rfl
@[simp] theorem raise_csum (e : ECode) : (s.raise e).csum = s.csum := rfl
@[simp] theorem raise_chkOk (e : ECode) : (s.raise e).chkOk = s.chkOk := rfl
@[simp] theorem raise_err (e : ECode) : (s.raise e).err = true := rfl
@[simp] theorem raise_ecode (e : ECode) : (s.raise e).ecode = e := rfl
@[simp] theorem raise_pad (e : ECode) : (s.raise e).pad = s.pad := rfl
@[simp] theorem raise_chain (e : ECode) : (s.raise e).chain = s.chain := rfl
@[simp] theorem raise_pending (e : ECode) : (s.raise e).pending = s.pending := rfl
@[simp] theorem raise_history (e : ECode) : (s.raise e).history = s.history := rfl

/-! ### startJob -/

@[simp] theorem startJob_acc : (s.startJob).acc = 0#12 := rfl
@[simp] theorem startJob_nbits : (s.startJob).nbits = 0#4 := rfl
@[simp] theorem startJob_cvtDone : (s.startJob).cvtDone = false := rfl
@[simp] theorem startJob_outq : (s.startJob).outq = [] := rfl
@[simp] theorem startJob_chkAcc : (s.startJob).chkAcc = 1#30 := rfl
@[simp] theorem startJob_csum : (s.startJob).csum = 0#30 := rfl
@[simp] theorem startJob_chkOk : (s.startJob).chkOk = false := rfl
@[simp] theorem startJob_err : (s.startJob).err = false := rfl
@[simp] theorem startJob_ecode : (s.startJob).ecode = .none := rfl
@[simp] theorem startJob_pad : (s.startJob).pad = s.pad := rfl
@[simp] theorem startJob_chain : (s.startJob).chain = s.chain := rfl
@[simp] theorem startJob_pending : (s.startJob).pending = s.pending := rfl
@[simp] theorem startJob_history : (s.startJob).history = s.history := rfl

/-! ### resetBlock -/

@[simp] theorem resetBlock_acc : (s.resetBlock).acc = 0#12 := rfl
@[simp] theorem resetBlock_nbits : (s.resetBlock).nbits = 0#4 := rfl
@[simp] theorem resetBlock_cvtDone : (s.resetBlock).cvtDone = false := rfl
@[simp] theorem resetBlock_outq : (s.resetBlock).outq = [] := rfl
@[simp] theorem resetBlock_chkAcc : (s.resetBlock).chkAcc = 1#30 := rfl
@[simp] theorem resetBlock_csum : (s.resetBlock).csum = 0#30 := rfl
@[simp] theorem resetBlock_chkOk : (s.resetBlock).chkOk = false := rfl
@[simp] theorem resetBlock_err : (s.resetBlock).err = false := rfl
@[simp] theorem resetBlock_ecode : (s.resetBlock).ecode = .none := rfl
@[simp] theorem resetBlock_pad : (s.resetBlock).pad = true := rfl
@[simp] theorem resetBlock_chain : (s.resetBlock).chain = false := rfl
@[simp] theorem resetBlock_pending : (s.resetBlock).pending = s.pending := rfl
@[simp] theorem resetBlock_history : (s.resetBlock).history = s.history := rfl

/-! ### enqueue -/

@[simp] theorem enqueue_acc (w : Sym) : (s.enqueue w).acc = s.acc := rfl
@[simp] theorem enqueue_nbits (w : Sym) : (s.enqueue w).nbits = s.nbits := rfl
@[simp] theorem enqueue_cvtDone (w : Sym) : (s.enqueue w).cvtDone = s.cvtDone := rfl
@[simp] theorem enqueue_outq (w : Sym) : (s.enqueue w).outq = s.outq ++ [w] := rfl
@[simp] theorem enqueue_chkAcc (w : Sym) : (s.enqueue w).chkAcc = s.chkAcc := rfl
@[simp] theorem enqueue_csum (w : Sym) : (s.enqueue w).csum = s.csum := rfl
@[simp] theorem enqueue_chkOk (w : Sym) : (s.enqueue w).chkOk = s.chkOk := rfl
@[simp] theorem enqueue_err (w : Sym) : (s.enqueue w).err = s.err := rfl
@[simp] theorem enqueue_ecode (w : Sym) : (s.enqueue w).ecode = s.ecode := rfl
@[simp] theorem enqueue_pad (w : Sym) : (s.enqueue w).pad = s.pad := rfl
@[simp] theorem enqueue_chain (w : Sym) : (s.enqueue w).chain = s.chain := rfl
@[simp] theorem enqueue_pending (w : Sym) : (s.enqueue w).pending = s.pending := rfl
@[simp] theorem enqueue_history (w : Sym) : (s.enqueue w).history = s.history := rfl

/-! ### stepChk -/

@[simp] theorem stepChk_acc (v : Sym) : (s.stepChk v).acc = s.acc := rfl
@[simp] theorem stepChk_nbits (v : Sym) : (s.stepChk v).nbits = s.nbits := rfl
@[simp] theorem stepChk_cvtDone (v : Sym) : (s.stepChk v).cvtDone = s.cvtDone := rfl
@[simp] theorem stepChk_outq (v : Sym) : (s.stepChk v).outq = s.outq := rfl
@[simp] theorem stepChk_chkAcc (v : Sym) : (s.stepChk v).chkAcc = polyStep s.chkAcc v := rfl
@[simp] theorem stepChk_csum (v : Sym) : (s.stepChk v).csum = s.csum := rfl
@[simp] theorem stepChk_chkOk (v : Sym) : (s.stepChk v).chkOk = s.chkOk := rfl
@[simp] theorem stepChk_err (v : Sym) : (s.stepChk v).err = s.err := rfl
@[simp] theorem stepChk_ecode (v : Sym) : (s.stepChk v).ecode = s.ecode := rfl
@[simp] theorem stepChk_pad (v : Sym) : (s.stepChk v).pad = s.pad := rfl
@[simp] theorem stepChk_chain (v : Sym) : (s.stepChk v).chain = s.chain := rfl
@[simp] theorem stepChk_pending (v : Sym) : (s.stepChk v).pending = s.pending := rfl
@[simp] theorem stepChk_history (v : Sym) : (s.stepChk v).history = s.history := rfl

end Sys2Proof.Machine.State
end

