-- ==== Sys2Proof/Laws/Ops.lean ====
section
/-!
SUPPORT. For each shared operation one lemma that says once everything it does.
-/

namespace Sys2Proof.Machine

variable (s : State)

/-! ### The parameters as numbers (R4) -/

@[simp] theorem outqDepth_eq : Config.outqDepth = 64 := rfl
@[simp] theorem fromBits_eq : Config.fromBits = 8 := rfl
@[simp] theorem toBits_eq : Config.toBits = 5 := rfl
@[simp] theorem nDigits_eq : Config.nDigits = 6 := rfl
@[simp] theorem windowBytes_eq : Config.windowBytes = 64 := rfl

theorem State.free_eq : s.free = 64 - s.outq.length := rfl

theorem pushWords_eq (n : BitVec 4) : pushWords n = (n.toNat + 8) / 5 := rfl

/-! ### The shared operations -/

/-- A command is ignored while ERR is 1 (R98). -/
@[simp] theorem State.obey_of_err (f : State → State) (h : s.err = true) : s.obey f = s := by
  simp [State.obey, h]

/-- A command runs while ERR is 0. -/
@[simp] theorem State.obey_of_not_err (f : State → State) (h : s.err = false) : s.obey f = f s := by
  simp [State.obey, h]

/-- What obeying a command can give: the state as it was with ERR = 1, or the command's state with ERR = 0. -/
theorem State.obey_cases (f : State → State) :
    (s.err = true ∧ s.obey f = s) ∨ (s.err = false ∧ s.obey f = f s) := by
  cases h : s.err <;> simp [h]

/-- Pushing a list appends it to OUTQ and changes nothing else. -/
theorem State.enqueueAll_eq (ws : List Sym) : s.enqueueAll ws = { s with outq := s.outq ++ ws } := by
  induction ws generalizing s with
  | nil => simp [State.enqueueAll]
  | cons w ws ih =>
    have h : s.enqueueAll (w :: ws) = (s.enqueue w).enqueueAll ws := rfl
    rw [h, ih]
    simp [State.enqueue, State.setOutq]

/-- `Emit` appends the word and, with CHAIN = 1, steps it; it changes nothing else (R69). -/
theorem State.emit_eq (w : Sym) :
    s.emit w = { s with outq := s.outq ++ [w], chkAcc := if s.chain then polyStep s.chkAcc w else s.chkAcc } := by
  cases h : s.chain <;> simp [State.emit, State.enqueue, State.setOutq, State.stepChk, State.setChkAcc, h]

@[simp] theorem polySteps_nil (c : Chk) : polySteps c [] = c := rfl

@[simp] theorem polySteps_cons (c : Chk) (v : Sym) (vs : List Sym) :
    polySteps c (v :: vs) = polySteps (polyStep c v) vs := rfl

/-- Stepping a sequence and then another is stepping their concatenation (R82). -/
theorem polySteps_append (c : Chk) (vs ws : List Sym) :
    polySteps c (vs ++ ws) = polySteps (polySteps c vs) ws := by
  simp [polySteps, List.foldl_append]

@[simp] theorem length_digits (c : Chk) : (digits c).length = 6 := by simp [digits]

/-- Digit `i` is the five-bit field of CSUM at bit `5 (5 - i)` (R29). -/
theorem digit_eq (c : Chk) (i : Nat) : digit c i = c.extractLsb' (5 * (5 - i)) 5 := by
  apply BitVec.eq_of_toNat_eq
  simp only [digit, BitVec.toNat_setWidth, BitVec.toNat_and, BitVec.toNat_ushiftRight, BitVec.toNat_ofNat,
    BitVec.extractLsb'_toNat]
  rw [show 31 % 2 ^ 30 = 2 ^ 5 - 1 by rfl, Nat.and_two_pow_sub_one_eq_mod]
  omega

/-- The tail word is ACC shifted left by 5 - NBITS, cut to five bits (R70, R71). -/
theorem tailWord_eq (acc : BitVec 12) (n : BitVec 4) :
    tailWord acc n = BitVec.ofNat 5 (acc.toNat * 2 ^ (5 - n.toNat)) := by
  apply BitVec.eq_of_toNat_eq
  simp [tailWord, Nat.shiftLeft_eq]
  rw [show (31 : Nat) = 2 ^ 5 - 1 by rfl, Nat.and_two_pow_sub_one_eq_mod]
  omega

/-- A top word is ACC shifted right, cut to five bits (R67). -/
theorem topWord_eq (acc : BitVec 12) (n : BitVec 4) :
    topWord acc n = BitVec.ofNat 5 (acc.toNat / 2 ^ n.toNat) := by
  apply BitVec.eq_of_toNat_eq
  simp [topWord, Nat.shiftRight_eq_div_pow]
  rw [show (31 : Nat) = 2 ^ 5 - 1 by rfl, Nat.and_two_pow_sub_one_eq_mod]
  simp

/-- The range check of CVT_PUSH on numbers (R100). -/
theorem exceedsByte_iff (v : BitVec 24) : exceedsByte v = true ↔ 256 ≤ v.toNat := by
  simp only [exceedsByte, bne_iff_ne, ne_eq, ← BitVec.toNat_inj]
  simp [Nat.shiftRight_eq_div_pow]
  omega

/-- ACC after a push of a byte, on numbers (R67). -/
theorem shiftIn_eq (acc : BitVec 12) (v : BitVec 24) (h : v.toNat < 256) :
    shiftIn acc v = BitVec.ofNat 12 (acc.toNat * 256 + v.toNat) := by
  apply BitVec.eq_of_toNat_eq
  have hd : acc.toNat * 256 % 4096 = (acc.toNat % 16) <<< 8 := by rw [Nat.shiftLeft_eq]; omega
  simp only [shiftIn, fromBits_eq, BitVec.toNat_or, BitVec.toNat_shiftLeft, BitVec.toNat_setWidth,
    BitVec.toNat_ofNat, Nat.shiftLeft_eq]
  rw [Nat.mod_eq_of_lt (show v.toNat < 2 ^ 12 by omega), show acc.toNat * 2 ^ 8 % 2 ^ 12 = (acc.toNat % 16) <<< 8 from hd,
    ← Nat.shiftLeft_add_eq_or_of_lt (show v.toNat < 2 ^ 8 by omega), Nat.shiftLeft_eq]
  omega

/-- No round is due when fewer than five bits are buffered. -/
theorem emitWhole_done (n : Nat) (h : s.nbits.toNat < 5) : emitWhole n s = s := by
  cases n with
  | zero => rfl
  | succ n => simp [emitWhole, Nat.not_le.mpr h]

/-- One round takes five bits from the count and emits the top word (R67). -/
theorem emitWhole_round (n : Nat) (h : 5 ≤ s.nbits.toNat) :
    emitWhole (n + 1) s =
      emitWhole n ((s.setNbits (s.nbits - 5#4)).emit (topWord s.acc (s.nbits - 5#4))) := by
  simp [emitWhole, h]

/-- The whole loop of a push: it emits some words `ws` in order, one for each five buffered bits, leaves fewer
than five bits buffered, and changes only NBITS, OUTQ and, with CHAIN = 1, CHK_ACC. -/
theorem emitWhole_cases (n : Nat) (h : s.nbits.toNat < 5 * (n + 1)) :
    ∃ ws : List Sym, ws.length = s.nbits.toNat / 5 ∧
      emitWhole n s =
        { s with
          nbits := BitVec.ofNat 4 (s.nbits.toNat % 5)
          outq := s.outq ++ ws
          chkAcc := if s.chain then polySteps s.chkAcc ws else s.chkAcc } := by
  induction n generalizing s with
  | zero =>
    have hn : BitVec.ofNat 4 (s.nbits.toNat % 5) = s.nbits := by
      rw [Nat.mod_eq_of_lt (by omega)]; simp
    exact ⟨[], by simp; omega, by simp [emitWhole, hn]⟩
  | succ n ih =>
    by_cases h5 : 5 ≤ s.nbits.toNat
    · have hlt : (s.nbits - 5#4).toNat = s.nbits.toNat - 5 := by
        rw [BitVec.toNat_sub_of_le (by simpa [BitVec.le_def] using h5)]; rfl
      obtain ⟨ws, hl, he⟩ := ih ((s.setNbits (s.nbits - 5#4)).emit (topWord s.acc (s.nbits - 5#4)))
        (by simp [State.emit_eq, hlt]; omega)
      refine ⟨topWord s.acc (s.nbits - 5#4) :: ws, ?_, ?_⟩
      · simp [State.emit_eq, hlt] at hl
        simp [hl]; omega
      · rw [emitWhole_round s n h5, he]
        have hm : (s.nbits.toNat - 5) % 5 = s.nbits.toNat % 5 := by omega
        cases hc : s.chain <;> simp [State.emit_eq, State.setNbits, hlt, hm, hc]
    · have hn : BitVec.ofNat 4 (s.nbits.toNat % 5) = s.nbits := by
        rw [Nat.mod_eq_of_lt (by omega)]; simp
      exact ⟨[], by simp; omega, by simp [emitWhole_done s (n + 1) (by omega), hn]⟩

/-- What CVT_PUSH does: one of its three errors, or the loop on the shifted-in accumulator (R67). -/
theorem cvtPush_cases (v : BitVec 24) :
    (∃ e, cvtPush v s = s.raise e) ∨
    (s.cvtDone = false ∧ exceedsByte v = false ∧ pushWords s.nbits ≤ s.free ∧
      cvtPush v s = emitWhole 3 ((s.setAcc (shiftIn s.acc v)).setNbits (s.nbits + 8#4))) := by
  unfold cvtPush
  split
  · exact .inl ⟨_, rfl⟩
  · split
    · exact .inl ⟨_, rfl⟩
    · split
      · exact .inl ⟨_, rfl⟩
      · exact .inr ⟨by simp_all, by simp_all, by omega, rfl⟩

/-- What CVT_FLUSH does: an error, or NBITS 0 and CVT_DONE 1 after at most one word emitted (R70, R71). -/
theorem cvtFlush_cases :
    (∃ e, cvtFlush s = s.raise e) ∨
    (s.cvtDone = false ∧ cvtFlush s = (s.setNbits 0#4).markFlushed) ∨
    (s.cvtDone = false ∧ s.pad = true ∧ 1 ≤ s.free ∧
      cvtFlush s = ((s.emit (tailWord s.acc s.nbits)).setNbits 0#4).markFlushed) := by
  unfold cvtFlush cvtFlushPad cvtFlushStrict tailWords
  cases hd : s.cvtDone <;> cases hp : s.pad <;> by_cases hn : 0 < s.nbits.toNat <;>
    cases hb : badTail s.acc s.nbits <;> by_cases hf : s.free < 1 <;> simp_all <;> omega

/-- What CHK_CREATE does: the overflow error, or six zeros stepped, CSUM written and its digits queued (R81). -/
theorem chkCreate_cases :
    (s.free < 6 ∧ chkCreate s = s.raise .outqOverflow) ∨
    (6 ≤ s.free ∧ ∃ c, c = polySteps s.chkAcc (List.replicate 6 0#5) ∧
      chkCreate s = { s with chkAcc := c, csum := c ^^^ 1#30, outq := s.outq ++ digits (c ^^^ 1#30) }) := by
  by_cases h : s.free < 6
  · exact .inl ⟨h, by simp [chkCreate, h]⟩
  · refine .inr ⟨by omega, _, rfl, ?_⟩
    unfold chkCreate
    rw [if_neg h]
    simp only [State.enqueueAll_eq]
    rfl

end Sys2Proof.Machine
end

