-- ==== Sys2Proof/Laws/Access.lean ====
section
/-!
SUPPORT. What a command word, a register access and a step can do, and what a handled event adds to a job, said
once; later proofs cite these and do not unfold the step.
-/

namespace Sys2Proof.Machine

/-- A command word runs its command, or is ILLEGAL and raises ILLEGAL_COMMAND unless ERR is 1 (R61, R102). -/
theorem execute_cases (w : Word) (s : State) :
    (∃ i, decode w = .ok i ∧ execute w s = exec i s) ∨
    (∃ e, decode w = .error e ∧ execute w s = .next (s.obey fun t => t.raise .illegalCommand)) := by
  unfold execute
  split
  · next i h => exact .inl ⟨i, h, rfl⟩
  · next e h => exact .inr ⟨e, h, rfl⟩

/-- What each command answers. -/
theorem exec_cases (i : Instr) (s : State) :
    (i = .nop ∧ exec i s = .next s) ∨
    (i = .init ∧ exec i s = .next s.startJob) ∨
    (∃ v, i = .cvtPush v ∧ exec i s = .next (s.obey (cvtPush v))) ∨
    (i = .cvtFlush ∧ exec i s = .next (s.obey cvtFlush)) ∨
    (∃ v, (i = .chkStep v ∨ (∃ c, i = .chkHi c ∧ v = hiPart c) ∨ ∃ c, i = .chkLo c ∧ v = loPart c) ∧
      exec i s = .next (s.obey fun t => t.stepChk v)) ∨
    (i = .chkCreate ∧ exec i s = .next (s.obey chkCreate)) ∨
    (i = .chkVerify ∧ exec i s = .next (s.obey fun t => t.setChkOk (verdict t.chkAcc))) := by
  cases i with
  | nop => exact .inl ⟨rfl, rfl⟩
  | init => exact .inr (.inl ⟨rfl, rfl⟩)
  | cvtPush v => exact .inr (.inr (.inl ⟨v, rfl, rfl⟩))
  | cvtFlush => exact .inr (.inr (.inr (.inl ⟨rfl, rfl⟩)))
  | chkStep v => exact .inr (.inr (.inr (.inr (.inl ⟨v, .inl rfl, rfl⟩))))
  | chkHi c => exact .inr (.inr (.inr (.inr (.inl ⟨_, .inr (.inl ⟨c, rfl, rfl⟩), rfl⟩))))
  | chkLo c => exact .inr (.inr (.inr (.inr (.inl ⟨_, .inr (.inr ⟨c, rfl, rfl⟩), rfl⟩))))
  | chkCreate => exact .inr (.inr (.inr (.inr (.inr (.inl ⟨rfl, rfl⟩)))))
  | chkVerify => exact .inr (.inr (.inr (.inr (.inr (.inr ⟨rfl, rfl⟩)))))

/-- A write of a register: CMD runs the word, CTRL takes two bits, any other is ignored (R40, R89, R91). -/
theorem writeRegister_cases (r : Reg) (d : Word) (s : State) :
    (r = .cmd ∧ writeRegister r d s = execute d s) ∨
    (r = .ctrl ∧ writeRegister r d s = .next (s.setCtrl (d.getLsbD 0) (d.getLsbD 1))) ∨
    (r ≠ .cmd ∧ r ≠ .ctrl ∧ writeRegister r d s = .next s) := by
  cases r <;> simp [writeRegister]

/-- A read of a register changes the state only if the register is DOUT (R41). -/
theorem afterRead_of_ne_dout {r : Reg} (s : State) (h : r ≠ .dout) : afterRead r s = s := by
  cases r <;> simp_all [afterRead]

/-- What an access can do: no answer, the bus error, a read, a write (R34, R37, R87). -/
theorem access_cases (a : Access) (s : State) :
    (a.inWindow = false ∧ access a s = .next (s.record (.access a) none)) ∨
    (a.inWindow = true ∧ a.target = none ∧
      access a s = .next (s.record (.access a) (some (.busError Config.busErrorResponse)))) ∨
    (a.inWindow = true ∧ ∃ r, a.target = some r ∧ a.kind = .read ∧
      access a s = .next ((afterRead r s).record (.access a) (some (.data (readValue r s))))) ∨
    (a.inWindow = true ∧ ∃ r, a.target = some r ∧ a.kind = .write ∧
      access a s = answered (.access a) .ok (writeRegister r a.data s)) := by
  unfold access
  cases hw : a.inWindow
  · simp
  · cases ht : a.target with
    | none => simp [answered]
    | some r => cases hk : a.kind <;> simp [answered]

/-- What a step can do: hold the state, or handle the oldest event (R43, R112). -/
theorem step_cases (s : State) :
    (s.pending = [] ∧ step s = .next s) ∨
    (∃ e es, s.pending = e :: es ∧ step s = handle e (s.setPending es)) := by
  unfold step
  split
  · next h => exact .inl ⟨h, rfl⟩
  · next e es h => exact .inr ⟨e, es, h, rfl⟩

/-- A handled event that starts no job is the latest of the job's (R118). -/
theorem State.jobHistory_of_cons {s t : State} {x : Handled} (h : t.history = x :: s.history)
    (hx : x.event.startsJob = false) : t.jobHistory = s.jobHistory ++ [x] := by
  simp [State.jobHistory, h, hx]

/-- A handled event that starts a job leaves the job empty (R118). -/
theorem State.jobHistory_of_start {s t : State} {x : Handled} (h : t.history = x :: s.history)
    (hx : x.event.startsJob = true) : t.jobHistory = [] := by
  simp [State.jobHistory, h, hx]

/-- The values of a command that answers a next state, then those of the rest (R82). -/
theorem jobSteps_cons {i : Instr} {s t : State} (is : List Instr) (h : exec i s = .next t) :
    jobSteps (i :: is) s = steppedBetween i s t ++ jobSteps is t := by
  simp [jobSteps, h]

end Sys2Proof.Machine
end

