-- ==== Sys2Proof/Laws/Decode.lean ====
section
/-!
SUPPORT. Small lemmas about the opcode table and the encoder.
-/

namespace Sys2Proof

/-- A row selects a word exactly when the masked word is its `match` (R51). -/
theorem OpcodeRow.selects_iff (r : OpcodeRow) (w : Word) : r.selects w = true ↔ w &&& r.mask = r.value := by
  simp [OpcodeRow.selects]

/-- What a decoded word can be: the command of a row of the table that selects it. -/
theorem decode_ok_cases {w : Word} {i : Instr} (h : decode w = .ok i) :
    ∃ r ∈ opcodeTable, r.selects w = true ∧ r.read w = i := by
  unfold decode at h
  split at h
  · next r hr =>
    have hs : r.selects w = true := List.find?_some (p := fun q => OpcodeRow.selects q w) hr
    exact ⟨r, List.mem_of_find?_eq_some hr, hs, by simpa using h⟩
  · simp at h

/-- A word that no row selects is ILLEGAL, and only such a word is. -/
theorem decode_error_iff {w : Word} :
    (∃ e, decode w = .error e) ↔ ∀ r ∈ opcodeTable, r.selects w = false := by
  unfold decode
  split
  · next r hr =>
    have hs : r.selects w = true := List.find?_some (p := fun q => OpcodeRow.selects q w) hr
    simp only [reduceCtorEq, exists_false, false_iff]
    exact fun h => by simp [h r (List.mem_of_find?_eq_some hr)] at hs
  · next hn => simpa [List.find?_eq_none] using hn

end Sys2Proof
end

