-- ==== Sys2Proof/Laws/PerInstr.lean ====
section
/-!
SUPPORT. Facts about every command as syntax, one lemma per constructor.
-/

namespace Sys2Proof.Laws.WellFormed

/-- Every command passes the checks of R53: the widths of its operands leave the must-be-zero bits zero. -/
def Statement (i : Instr) : Prop := i.wellFormed = true

theorem nop : Statement .nop := rfl

theorem init : Statement .init := rfl

theorem cvtPush (v : BitVec 24) : Statement (.cvtPush v) := by
  simp [Statement, Instr.wellFormed, Instr.toCmd, Cmd32.wellFormed, opcodeForm, Instr.opcode, Instr.operandField,
    OperandForm.mustBeZero]

theorem cvtFlush : Statement .cvtFlush := rfl

theorem chkStep (v : Sym) : Statement (.chkStep v) := by
  revert v; unfold Statement; decide

theorem chkHi (c : Octet) : Statement (.chkHi c) := by
  revert c; unfold Statement; decide

theorem chkLo (c : Octet) : Statement (.chkLo c) := by
  revert c; unfold Statement; decide

theorem chkCreate : Statement .chkCreate := rfl

theorem chkVerify : Statement .chkVerify := rfl

end Sys2Proof.Laws.WellFormed

namespace Sys2Proof.Laws.Fields

/-- The encoder's word has the opcode of R51 in bits [31:24] and the operand of R50 in bits [23:0]. -/
def Statement (i : Instr) : Prop := Cmd32.ofWord (encode i) = i.toCmd

theorem nop : Statement .nop := rfl

theorem init : Statement .init := rfl

theorem cvtPush (v : BitVec 24) : Statement (.cvtPush v) := by
  simp only [Statement, Cmd32.ofWord, encode, Instr.toCmd, Instr.opcode, Instr.operandField, Cmd32.mk.injEq]
  constructor
  · have high : (v.setWidth 32).extractLsb' 24 8 = 0#8 := by ext i hi; simp
    simp [field, BitVec.extractLsb'_or, high]
  · ext i hi; simp; interval_cases i <;> simp

theorem cvtFlush : Statement .cvtFlush := rfl

theorem chkStep (v : Sym) : Statement (.chkStep v) := by
  revert v; unfold Statement; decide

theorem chkHi (c : Octet) : Statement (.chkHi c) := by
  revert c; unfold Statement; decide

theorem chkLo (c : Octet) : Statement (.chkLo c) := by
  revert c; unfold Statement; decide

theorem chkCreate : Statement .chkCreate := rfl

theorem chkVerify : Statement .chkVerify := rfl

end Sys2Proof.Laws.Fields
end

