-- ==== Sys2Proof/Tests/Slice0.lean ====
section
/-!
SUPPORT. Small tests, each one step or one decoding, with the expected value taken from spec/ (mostly
95_test_vectors.md), and for each statement of Certificates/Slice0/Obligations.lean with hypotheses a concrete
state and operands that meet them.
-/

namespace Sys2Proof.Tests

open Sys2Proof Sys2Proof.Machine

/-- The state an outcome goes on with, if it goes on. -/
def nextOf : Outcome → Option State
  | .next t => some t
  | .fault _ | .refused _ => none

/-- The command at a state. -/
def after (i : Instr) (s : State) : Option State := nextOf (exec i s)

/-- The step at a state. -/
def stepped (s : State) : Option State := nextOf (step s)

/-- What the host got back last. -/
def lastReply (s : Option State) : Option (Option Reply) := s.bind fun t => t.history.head?.map Handled.reply

/-- The reset state with events to come. -/
def waiting (es : List HostEvent) : State := { State.reset with pending := es }

/-- A state with OUTQ holding `n` zeros. -/
def queued (n : Nat) : State := { State.reset with outq := List.replicate n 0#5 }

/-- A failed state. -/
def broken : State := { State.reset with err := true, ecode := .illegalCommand }

/-! ### Well-formedness: one ill-formed word for each check (R53) -/

theorem test_unassigned_opcode_refused : Cmd32.wellFormed ⟨0x02#8, 0#24⟩ = false := by decide
theorem test_form_z_operand_refused : Cmd32.wellFormed ⟨0x00#8, 1#24⟩ = false := by decide
theorem test_form_v5_operand_refused : Cmd32.wellFormed ⟨0x20#8, 0x20#24⟩ = false := by decide
theorem test_form_c8_operand_refused : Cmd32.wellFormed ⟨0x21#8, 0x100#24⟩ = false := by decide
theorem test_form_v24_has_no_check : Cmd32.wellFormed ⟨0x10#8, 0xFFFFFF#24⟩ = true := by decide

/-! ### Decoding: a word of every constructor, bit by bit from R48 and R51 -/

theorem test_decode_nop : decode 0b00000000000000000000000000000000#32 = .ok .nop := by rfl
theorem test_decode_init : decode 0b00000001000000000000000000000000#32 = .ok .init := by rfl
theorem test_decode_push : decode 0b00010000100000000000000100000001#32 = .ok (.cvtPush 0x800101#24) := by rfl
theorem test_decode_flush : decode 0b00010001000000000000000000000000#32 = .ok .cvtFlush := by rfl
theorem test_decode_step : decode 0b00100000000000000000000000010101#32 = .ok (.chkStep 21#5) := by rfl
theorem test_decode_hi : decode 0b00100001000000000000000001101110#32 = .ok (.chkHi 0x6E#8) := by rfl
theorem test_decode_lo : decode 0b00100010000000000000000001101110#32 = .ok (.chkLo 0x6E#8) := by rfl
theorem test_decode_create : decode 0b00100011000000000000000000000000#32 = .ok .chkCreate := by rfl
theorem test_decode_verify : decode 0b00100100000000000000000000000000#32 = .ok .chkVerify := by rfl

/-- 95_test_vectors.md 4.7: illegal words. -/
theorem test_illegal_words :
    [0x00000001, 0x01000001, 0x02000000, 0x0F000000, 0x11000001, 0x12000000, 0x1FFFFFFF, 0x20000020, 0x21000100,
      0x22000100, 0x23000001, 0x24800000, 0x25000000, 0x30000000, 0xFF000000].all
      (fun w => (decodeTableWord 32 w).isNone) = true := by decide

/-! ### Commands (95_test_vectors.md section 4) -/

/-- 4.8: `nop` leaves the state. -/
theorem test_nop : after .nop State.reset = some State.reset := by decide

/-- 4.8: INIT keeps CTRL and clears the error. -/
theorem test_init_keeps_ctrl :
    (after .init { broken with pad := false, chain := true }).map (fun t => (ctrlWord t, statusWord t))
      = some (0x00000002#32, 0x00000000#32) := by decide

/-- R67: from ACC 0x0FF, NBITS 3, `cvt.push 0x01` gives ACC 0xF01, NBITS 1 and the words 28, 0. -/
theorem test_push_two_words :
    (after (.cvtPush 0x01#24) { State.reset with acc := 0x0FF#12, nbits := 3#4, outq := [31#5] }).map
      (fun t => (cvtStateWord t, t.outq)) = some (0x00010F01#32, [31#5, 28#5, 0#5]) := by decide

/-- P2: with CHAIN = 1 and CHK_ACC 0x00008C01, `cvt.push 0xFF` gives CHK_ACC 0x0011803F. -/
theorem test_push_chained :
    (after (.cvtPush 0xFF#24) { State.reset with chain := true, chkAcc := 0x00008C01#30 }).map
      (fun t => (t.chkAcc, t.outq)) = some (0x0011803F#30, [31#5]) := by decide

/-- R70: ACC 0xF01, NBITS 1: the tail word is 16. -/
theorem test_flush_padded :
    (after .cvtFlush { State.reset with acc := 0xF01#12, nbits := 1#4 }).map
      (fun t => (cvtStateWord t, t.outq, t.cvtDone)) = some (0x00000F01#32, [16#5], true) := by decide

/-- R71: `(0x001 << 2) & 31 = 4`: MALFORMED_PADDING, NBITS stays 3. -/
theorem test_flush_strict_malformed :
    (after .cvtFlush { State.reset with pad := false, acc := 0x001#12, nbits := 3#4, outq := [0#5] }).map
      (fun t => (statusWord t, cvtStateWord t)) = some (0x00010021#32, 0x00030001#32) := by decide

/-- 4.1: from CHK_ACC 0x3E000000, `b = 31`, value 5. -/
theorem test_step_all_generators :
    (after (.chkStep 5#5) { State.reset with chkAcc := 0x3E000000#30 }).map State.chkAcc
      = some 0x14CD914E#30 := by decide

/-- 4.1: `b = 1` selects GEN0. -/
theorem test_step_first_generator :
    (after (.chkStep 0#5) { State.reset with chkAcc := 0x02000000#30 }).map State.chkAcc
      = some 0x3B6A57B2#30 := by decide

/-- 4.2: `chk.hi 0xFF` steps 7. -/
theorem test_hi : (after (.chkHi 0xFF#8) State.reset).map State.chkAcc = some 0x00000027#30 := by decide

/-- R79: from 0x00000460, `chk.lo 'a'` gives 0x00008C01. -/
theorem test_lo :
    (after (.chkLo 0x61#8) { State.reset with chkAcc := 0x00000460#30 }).map State.chkAcc
      = some 0x00008C01#30 := by decide

/-- R81: from CHK_ACC 0x00008C01. -/
theorem test_create :
    (after .chkCreate { State.reset with chkAcc := 0x00008C01#30 }).map (fun t => (t.chkAcc, t.csum, t.outq))
      = some (0x15CCFE9E#30, 0x15CCFE9F#30, [10#5, 28#5, 25#5, 31#5, 20#5, 31#5]) := by decide

/-- 4.5: with 59 entries queued CHK_CREATE overflows. -/
theorem test_create_overflow : (after .chkCreate (queued 59)).map statusWord = some 0x003B0041#32 := by decide

/-- 4.6: right after INIT the empty sequence verifies. -/
theorem test_verify : (after .chkVerify State.reset).map statusWord = some 0x00000200#32 := by decide

/-- 4.6: CHK_ACC 0x00008C01 does not verify, and that is no error. -/
theorem test_verify_fails :
    (after .chkVerify { State.reset with chkAcc := 0x00008C01#30, chkOk := true }).map statusWord
      = some 0x00000000#32 := by decide

/-! ### Accesses (95_test_vectors.md section 3) -/

theorem test_read_id : lastReply (stepped (waiting [rd 0x00])) = some (some (.data 0xB32C0001#32)) := by decide
theorem test_read_gen4 : lastReply (stepped (waiting [rd 0x30])) = some (some (.data 0x2A1462B3#32)) := by decide

theorem test_write_ctrl_all_ones :
    (stepped (waiting [wr 0x04 0xFFFFFFFF#32])).map ctrlWord = some 0x00000003#32 := by decide

/-- 4.7: a second error is not recorded. -/
theorem test_sticky :
    (stepped { broken with pending := [wrCmd 0x10000100#32] }).map statusWord = some 0x00000031#32 := by decide

/-- A misaligned read inside DOUT pops nothing. -/
theorem test_refused_read_pops_nothing :
    (stepped { waiting [.access ⟨.read, 0x11, 4, 0#32⟩] with outq := [31#5] }).map State.outq = some [31#5] := by
  decide

/-- A refused access is answered with the platform's response. -/
theorem test_refused_reply :
    lastReply (stepped (waiting [.access ⟨.write, 0x0C, 2, 0#32⟩]))
      = some (some (.busError Config.busErrorResponse)) := by rfl

/-- R92: the head and VALID. -/
theorem test_read_dout :
    lastReply (stepped { waiting [rd 0x10] with outq := [10#5, 28#5] }) = some (some (.data 0x8000000A#32)) := by
  decide

theorem test_reset_event :
    (stepped { broken with pad := false, pending := [.reset] }).map ctrlWord = some 0x00000001#32 := by decide

/-- A command placed for the next step runs first after reset: `cvt.push 0xFF` (R67). -/
theorem test_fetch_word :
    (stepped (State.reset.withFetchWord 32 0x100000FF)).map cvtStateWord = some 0x000300FF#32 := by decide

/-- With nothing pending a step holds the state. -/
theorem test_idle : stepped State.reset = some State.reset := by decide

/-- R118: both commands executed without error, then the job failed: complete, and its result is the failure. -/
theorem test_complete_then_failed :
    let s : State :=
      { broken with
        history :=
          [⟨wrCmd 0x30000000#32, some .ok, true⟩, ⟨wrCmd 0x23000000#32, some .ok, false⟩,
            ⟨wrCmd 0x11000000#32, some .ok, false⟩, ⟨wrCmd 0x01000000#32, some .ok, false⟩] }
    (s.encodeComplete, s.jobResult) = (true, .failure .illegalCommand) := by decide

/-- R118: a CHK_CREATE that raised an error leaves the job incomplete. -/
theorem test_failed_create_is_not_complete :
    let s : State :=
      { broken with
        history := [⟨wrCmd 0x23000000#32, some .ok, true⟩, ⟨wrCmd 0x11000000#32, some .ok, false⟩] }
    s.encodeComplete = false := by decide

/-! ### The assembler (R57 to R60) -/

theorem test_asm_push :
    Assembler.assembleLine "cvt.push 0x61 ; a byte".toList = .ok [wrCmd 0x10000061#32] := by rfl
theorem test_asm_step_range : Assembler.assembleLine "chk.step 32".toList = .error .outOfRange := by rfl
theorem test_asm_write : Assembler.assembleLine "wr CTRL, 0x3".toList = .ok [wr 0x04 3#32] := by rfl

/-! ### The hypotheses of the statements are met -/

theorem witness_ReservedWordsAreIllegal :
    decode 0x25000000#32 = .error .unassignedOpcode ∧ State.reset.err = false := by decide

theorem witness_PushOperandHasNoReservedBits :
    State.reset.err = false ∧ State.reset.cvtDone = false ∧ (0x100#24).extractLsb' 8 16 ≠ 0#16 := by decide

theorem witness_EncodeDecode : decode 0x2000001F#32 = .ok (.chkStep 31#5) := by decide

theorem witness_StepRunsDecodedCommand :
    (waiting [wrCmd 0x24000000#32]).pending = [wrCmd 0x24000000#32] ∧ decode 0x24000000#32 = .ok .chkVerify ∧
      (after .chkVerify (waiting [])).isSome = true := by decide

theorem witness_FetchWordRunsNext :
    decodeTableWord 32 0x23000000 = some .chkCreate ∧ (after .chkCreate State.reset).isSome = true := by decide

theorem witness_ExecuteTestsErrFirst :
    broken.err = true ∧ (0x01000001#32 ≠ 0x01000000#32) ∧ State.reset.err = false ∧
      decode 0x01000001#32 = .error .mustBeZeroBitSet ∧ decode 0x01000000#32 = .ok .init := by decide

theorem witness_NopHasNoEffect :
    field 0x00000001#32 24 8 = 0x00#8 ∧ field 0x00000001#32 0 24 ≠ 0#24 ∧ State.reset.err = false := by decide

theorem witness_InitStartsJob :
    broken.err = true ∧ Instr.nop ≠ .init ∧ field 0x01800000#32 24 8 = 0x01#8 ∧ field 0x01800000#32 0 24 ≠ 0#24 := by
  decide

/-- NBITS 1 and 63 entries, NBITS 2 and 62 entries, NBITS 4 and 62 entries: the last places of each clause. -/
theorem witness_CvtPushCompletes :
    (queued 63).err = false ∧ (queued 63).cvtDone = false ∧ (0xFF#24).toNat < 256 ∧
      (1#4).toNat ≤ 1 ∧ (queued 63).outq.length + 1 ≤ 64 ∧ 2 ≤ (2#4).toNat ∧ (4#4).toNat ≤ 4 ∧
      (queued 62).outq.length + 2 ≤ 64 := by decide

theorem witness_CvtPushErrors :
    ({ State.reset with cvtDone := true } : State).cvtDone = true ∧ 256 ≤ (0x100#24).toNat ∧
      State.reset.cvtDone = false ∧ (0xFF#24).toNat < 256 ∧ (queued 64).outq.length ≤ 64 ∧
      64 < (queued 64).outq.length + ((0#4).toNat + 8) / 5 ∧ 64 < (queued 63).outq.length + ((2#4).toNat + 8) / 5 := by
  decide

theorem witness_CvtFlushPadded :
    State.reset.err = false ∧ State.reset.pad = true ∧ State.reset.nbits = 0#4 ∧ (4#4 : BitVec 4) ≠ 0#4 ∧
      (queued 63).outq.length < 64 ∧ 64 ≤ (queued 64).outq.length := by decide

theorem witness_CvtFlushStrict :
    let s : State := { State.reset with pad := false, acc := 0x0F8#12, nbits := 3#4 }
    s.err = false ∧ s.pad = false ∧ s.nbits.toNat < 8 ∧ (s.acc.toNat * 2 ^ (5 - s.nbits.toNat)) % 32 = 0 ∧
      (0x0FB * 2 ^ (5 - s.nbits.toNat)) % 32 ≠ 0 := by decide

/-- 40 values fill OUTQ exactly. -/
theorem witness_PushesCountWords :
    (8 * (List.replicate 40 0xA5#8).length) / 5 ≤ 64 ∧ wordCount (List.replicate 40 0xA5#8).length ≤ 64 ∧
      State.reset.pad = true ∧ ({ State.reset with pad := false } : State).pad = false ∧ 2 < (8 * 4) % 5 + 1 := by
  decide

theorem witness_PaddedConversionIsTheBitStream :
    State.reset.pad = true ∧ wordCount [0xFF#8, 0x01#8].length ≤ 64 := by decide

theorem witness_ConversionIsLossless :
    State.reset.pad = true ∧ wordCount [0xA5#8, 0xFF#8, 0x01#8].length ≤ 64 := by decide

theorem witness_PolyStepStaysInThirtyBits : 0x3FFFFFFF < 2 ^ 30 ∧ 31 < 32 := by decide

theorem witness_ChkStepStepsItsValue :
    State.reset.err = false ∧ field 0x2000001F#32 24 8 = 0x20#8 ∧ field 0x2000001F#32 5 19 = 0#19 ∧
      field 0x20000020#32 24 8 = 0x20#8 ∧ field 0x20000020#32 5 19 ≠ 0#19 := by decide

theorem witness_HrpCharacterHalvesAreStepped :
    State.reset.err = false ∧ field 0x210000FF#32 24 8 = 0x21#8 ∧ field 0x210000FF#32 8 16 = 0#16 ∧
      field 0x220000FF#32 24 8 = 0x22#8 ∧ field 0x220000FF#32 8 16 = 0#16 ∧
      field 0x22000100#32 24 8 = 0x22#8 ∧ field 0x22000100#32 8 16 ≠ 0#16 := by decide

theorem witness_ChkCreateQueuesTheDigits :
    (queued 58).err = false ∧ (queued 58).outq.length + 6 ≤ 64 ∧ 64 < (queued 59).outq.length + 6 := by decide

theorem witness_ChkVerifyRecordsTheVerdict :
    State.reset.err = false ∧ State.reset.chkAcc = 1#30 ∧ (0x8C01#30 ≠ 1#30) := by decide

/-- P2's commands up to the first push, chained, and a job of the checksum engine alone. -/
theorem witness_ChkAccIsThePolymodOfTheJob :
    (nextOf (execAll [.init, .chkHi 0x61#8, .chkStep 0#5, .chkLo 0x61#8, .cvtPush 0xFF#24]
      { broken with chain := true })).map (fun t => (t.err, t.chkAcc)) = some (false, 0x0011803F#30) ∧
    (nextOf (execAll [.init, .chkHi 0x61#8, .chkCreate] broken)).map State.err = some false := by
  decide

theorem witness_ChainedWordsAreStepped :
    (after .cvtFlush { State.reset with nbits := 3#4, chain := true }).isSome = true := by decide

theorem witness_ChecksComeInOrder :
    (queued 64).Inv ∧ (queued 64).err = false ∧ firstError 0x100000FF#32 (queued 64) = some .outqOverflow ∧
      firstError 0x10000100#32 (queued 64) = some .valueOutOfRange ∧ firstError 0x11000000#32 (queued 64) = none ∧
      broken.Inv ∧ broken.err = true := by decide

theorem witness_ErrorsArePrecise :
    State.reset.err = false ∧ (nextOf (execute 0x10000100#32 State.reset)).map State.err = some true := by decide

theorem witness_ErrorsAreSticky :
    broken.err = true ∧ (0x01000001#32 ≠ 0x01000000#32) ∧ registerAt 0x3C = some (.reserved 2) ∧
      registerAt 0x00 = some .id ∧ ({ broken with outq := [31#5] } : State).outq = [31#5] := by decide

theorem witness_OnlyInitAndResetClearErr :
    let s : State := { broken with pending := [wrCmd 0x01000000#32] }
    s.err = true ∧ (stepped s).map State.err = some false := by decide

theorem witness_OnlyNamedCommandsWriteAnElement :
    (after (.cvtPush 0xFF#24) State.reset).map (fun t => t.acc == State.reset.acc) = some false := by decide

theorem witness_OnlyTheHostWritesCtrl :
    (stepped (waiting [wr 0x04 0x2#32])).map (fun t => (t.pad == State.reset.pad, t.chain == State.reset.chain))
      = some (false, false) := by decide

theorem witness_QueueIsFirstInFirstOut : (stepped { waiting [rd 0x10] with outq := [7#5] }).isSome = true := by decide

theorem witness_JobsDependOnlyOnTheirCommands :
    State.reset.pad = broken.pad ∧ State.reset.chain = broken.chain ∧
      (nextOf (execAll [.init, .cvtPush 0xFF#24] State.reset)).isSome = true ∧
      (nextOf (execAll [.init, .cvtPush 0xFF#24] broken)).isSome = true := by decide

theorem witness_StatusShowsItsFields : (queued 64).outq.length ≤ 64 := by decide

theorem witness_OnlyThreeAccessesHaveEffects :
    let a : Access := ⟨.read, 0x08, 4, 0#32⟩
    (nextOf (access a State.reset)).map (fun t => t.history.head?.map Handled.reply)
      = some (some (some (.data 0x00000000#32))) ∧ a.off ≠ 0x10 := by decide

theorem witness_OtherAccessesAreRefused :
    let a : Access := ⟨.read, 0x3F, 4, 0#32⟩
    let b : Access := ⟨.write, 0x00, 8, 0#32⟩
    0 ≤ a.off ∧ a.off < 64 ∧ a.off % 4 ≠ 0 ∧ 0 ≤ b.off ∧ b.size ≠ 4 := by decide

theorem witness_AddressSelectsTheWindow : Config.base / 64 = Config.base / 64 := rfl

theorem witness_NoResponseOutsideTheWindow :
    (⟨.read, -1, 4, 0#32⟩ : Access).off < 0 ∧ 64 ≤ (⟨.write, 64, 4, 0#32⟩ : Access).off := by decide

theorem witness_ResetGivesEveryElement :
    ({ broken with pending := [.resetDuring ⟨.read, 0x10, 4, 0#32⟩] } : State).pending
      = [.resetDuring ⟨.read, 0x10, 4, 0#32⟩] := by decide

theorem witness_StepKeepsTheInvariant :
    let s := { queued 62 with nbits := 4#4, pending := [wrCmd 0x100000FF#32] }
    s.Inv ∧ (stepped s).isSome = true := by decide

/-- Every clause: an accepted read and write, a refused access and one outside the window. -/
theorem witness_EventsCompleteInOrder :
    let a : Access := ⟨.read, 0x3C, 4, 0#32⟩
    let b : Access := ⟨.write, 0x00, 4, 0#32⟩
    let c : Access := ⟨.read, 0x3D, 4, 0#32⟩
    let d : Access := ⟨.write, 0x40, 4, 0#32⟩
    (waiting [.access a, .access b, .access c, .access d, .reset]).pending
      = [.access a, .access b, .access c, .access d] ++ [.reset] ∧
    a.inWindow = true ∧ a.off % 4 = 0 ∧ b.inWindow = true ∧ b.off % 4 = 0 ∧ c.inWindow = true ∧ c.off % 4 ≠ 0 ∧
      d.inWindow = false := by decide

/-- A payload of 36 bytes is the longest that fits with its six digits. -/
theorem witness_EncodeCommandsQueueTheEncoding :
    let s := { State.reset with chain := true }
    s.pad = true ∧ s.chain = true ∧ wordCount (List.replicate 36 0xFF#8).length + 6 ≤ 64 := by decide

theorem witness_CanonicalJobResultIsTheEncoding :
    (waiting (canonicalJob [0x61#8] [0xFF#8])).pending = canonicalJob [0x61#8] [0xFF#8] ++ [] ∧
      wordCount [0xFF#8].length + 6 ≤ 64 := by decide

theorem witness_AssemblerExpandsPseudoInstructions :
    (∀ c ∈ ['n', 'p', 'u', 'b'], c.toNat ≤ 127) ∧ ['e', '0', 'f'].length % 2 = 1 ∧ 'z' ∈ ['z', 'z'] := by simp

/-- The last value `cvt.push` accepts, in both number forms. -/
theorem witness_AssemblerExpandsBytes :
    Assembler.number "0xFFFFFF".toList = some 0xFFFFFF ∧ Assembler.number "255".toList = some 255 ∧
      0xFFFFFF ≤ 0xFFFFFF := by decide

theorem witness_AssemblerRefusesNonHex :
    'z' ∉ ['0', '1', '2', '3', '4', '5', '6', '7', '8', '9', 'a', 'b', 'c', 'd', 'e', 'f',
      'A', 'B', 'C', 'D', 'E', 'F'] := by simp

/-- A job whose flush has run and whose next event is CHK_CREATE with room; its steps end with ERR = 0. -/
theorem witness_EncodeCompletionOutlivesLaterErrors :
    let s : State :=
      { waiting [wrCmd 0x23000000#32] with cvtDone := true, history := [⟨wrCmd 0x11000000#32, some .ok, false⟩] }
    s.jobHistory.any (Handled.ranWithoutError 0x11000000#32) = true ∧
      (stepped s).map (fun t => (t.err, t.encodeComplete)) = some (false, true) := by decide

/-- R118: a complete job, whose next event is an illegal command, and a failed state. -/
theorem witness_EncodeCompletionStays :
    let s : State :=
      { waiting [wrCmd 0x30000000#32] with
        cvtDone := true
        history := [⟨wrCmd 0x23000000#32, some .ok, false⟩, ⟨wrCmd 0x11000000#32, some .ok, false⟩] }
    s.encodeComplete = true ∧ (wrCmd 0x30000000#32).startsJob = false ∧ broken.err = true := by decide

theorem witness_ReadsAs : (waiting [rd 0x08]).pending = [rd 0x08] := by decide

theorem witness_WriteIgnored : (waiting [wr 0x34 5#32]).pending = [wr 0x34 5#32] := by decide

end Sys2Proof.Tests
end

/-!
SUPPORT. The statements of spec/10_state.md: first what commands, registers and events do to the elements, said
once, then the theorems that settle the obligations.
-/

namespace Sys2Proof.Machine

/-! ### What the commands write (10_state.md R10 to R18)

The converter commands and CHK_CREATE, with the test of ERR before them, as one record update that covers the
completion, the errors and the ignored command alike. -/

/-- CVT_PUSH writes ACC, NBITS, ERR and ECODE, appends words to OUTQ, and steps those words with CHAIN = 1. -/
theorem obey_cvtPush_writes (v : BitVec 24) (s : State) :
    ∃ acc nbits ws err ecode, s.obey (cvtPush v) =
      { s with
        acc := acc, nbits := nbits, outq := s.outq ++ ws, err := err, ecode := ecode
        chkAcc := if s.chain then polySteps s.chkAcc ws else s.chkAcc } := by
  obtain ⟨-, ho⟩ | ⟨-, ho⟩ := s.obey_cases (cvtPush v)
  · exact ⟨_, _, [], _, _, by simpa using ho⟩
  · rw [ho]
    obtain ⟨e, hr⟩ | ⟨-, -, -, hp⟩ := cvtPush_cases s v
    · exact ⟨_, _, [], _, _, by simpa [State.raise] using hr⟩
    · obtain ⟨ws, -, hw⟩ :=
        emitWhole_cases ((s.setAcc (shiftIn s.acc v)).setNbits (s.nbits + 8#4)) 3 (by omega)
      exact ⟨_, _, ws, _, _, hp.trans hw⟩

/-- CVT_FLUSH writes NBITS, CVT_DONE, ERR and ECODE, appends words to OUTQ, and steps those words with
CHAIN = 1. -/
theorem obey_cvtFlush_writes (s : State) :
    ∃ nbits done ws err ecode, s.obey cvtFlush =
      { s with
        nbits := nbits, cvtDone := done, outq := s.outq ++ ws, err := err, ecode := ecode
        chkAcc := if s.chain then polySteps s.chkAcc ws else s.chkAcc } := by
  obtain ⟨-, ho⟩ | ⟨-, ho⟩ := s.obey_cases cvtFlush
  · exact ⟨_, _, [], _, _, by simpa using ho⟩
  · rw [ho]
    obtain ⟨e, hr⟩ | ⟨-, hf⟩ | ⟨-, -, -, hf⟩ := cvtFlush_cases s
    · exact ⟨_, _, [], _, _, by simpa [State.raise] using hr⟩
    · exact ⟨_, _, [], _, _, by simpa [State.setNbits, State.markFlushed] using hf⟩
    · exact ⟨_, _, [tailWord s.acc s.nbits], _, _, by
        simpa [State.emit_eq, State.setNbits, State.markFlushed] using hf⟩

/-- CHK_CREATE writes CHK_ACC, CSUM, ERR and ECODE, and appends words to OUTQ. -/
theorem obey_chkCreate_writes (s : State) :
    ∃ chkAcc csum ws err ecode, s.obey chkCreate =
      { s with chkAcc := chkAcc, csum := csum, outq := s.outq ++ ws, err := err, ecode := ecode } := by
  obtain ⟨-, ho⟩ | ⟨-, ho⟩ := s.obey_cases chkCreate
  · exact ⟨_, _, [], _, _, by simpa using ho⟩
  · rw [ho]
    obtain ⟨-, hr⟩ | ⟨-, c, -, hc⟩ := chkCreate_cases s
    · exact ⟨_, _, [], _, _, by simpa [State.raise] using hr⟩
    · exact ⟨_, _, _, _, _, hc⟩

/-- CHK_STEP, CHK_HI and CHK_LO write CHK_ACC. -/
theorem obey_stepChk_writes (v : Sym) (s : State) :
    ∃ chkAcc, (s.obey fun t => t.stepChk v) = { s with chkAcc := chkAcc } := by
  obtain ⟨-, ho⟩ | ⟨-, ho⟩ := s.obey_cases fun t => t.stepChk v <;> exact ⟨_, ho⟩

/-- CHK_VERIFY writes CHK_OK. -/
theorem obey_chkVerify_writes (s : State) :
    ∃ chkOk, (s.obey fun t => t.setChkOk (verdict t.chkAcc)) = { s with chkOk := chkOk } := by
  obtain ⟨-, ho⟩ | ⟨-, ho⟩ := s.obey_cases fun t => t.setChkOk (verdict t.chkAcc) <;> exact ⟨_, ho⟩

/-- INIT empties OUTQ; any other command appends to it, possibly nothing (R13). -/
theorem exec_outq {i : Instr} {s t : State} (h : exec i s = .next t) :
    (i = .init ∧ t.outq = []) ∨ ∃ ws, t.outq = s.outq ++ ws := by
  obtain ⟨rfl, he⟩ | ⟨rfl, he⟩ | ⟨v, rfl, he⟩ | ⟨rfl, he⟩ | ⟨v, -, he⟩ | ⟨rfl, he⟩ | ⟨rfl, he⟩ :=
    exec_cases i s <;> obtain rfl := Host.Outcome.next.inj (he.symm.trans h)
  · exact .inr ⟨[], by simp⟩
  · exact .inl ⟨rfl, rfl⟩
  · obtain ⟨_, _, ws, _, _, hw⟩ := obey_cvtPush_writes v s
    exact .inr ⟨ws, by rw [hw]⟩
  · obtain ⟨_, _, ws, _, _, hw⟩ := obey_cvtFlush_writes s
    exact .inr ⟨ws, by rw [hw]⟩
  · obtain ⟨_, hw⟩ := obey_stepChk_writes v s
    exact .inr ⟨[], by simp [hw]⟩
  · obtain ⟨_, _, ws, _, _, hw⟩ := obey_chkCreate_writes s
    exact .inr ⟨ws, by rw [hw]⟩
  · obtain ⟨_, hw⟩ := obey_chkVerify_writes s
    exact .inr ⟨[], by simp [hw]⟩

/-! ### The registers an access reaches (10_state.md R21, 20_memory.md R36) -/

/-- The offset of a register in the window (R21); `registerAt_eq_some_iff` ties it to the register map. -/
def Reg.offset : Reg → Nat
  | .id         => 0x00
  | .ctrl       => 0x04
  | .status     => 0x08
  | .cmd        => 0x0C
  | .dout       => 0x10
  | .cvtState   => 0x14
  | .chkAcc     => 0x18
  | .csum       => 0x1C
  | .gen i      => 0x20 + 4 * i
  | .reserved i => 0x34 + 4 * i

/-- The register map has each register at its offset. -/
theorem registerAt_offset (r : Reg) : registerAt r.offset = some r := by
  cases r with
  | gen i => revert i; decide
  | reserved i => revert i; decide
  | _ => rfl

/-- The register map has nothing else. -/
theorem registerAt_eq_some_iff {off : Nat} {r : Reg} : registerAt off = some r ↔ off = r.offset := by
  constructor
  · intro h
    obtain ⟨before, after, hmap, -⟩ := List.lookup_eq_some_iff.mp h
    have hmem : (off, r) ∈ registerMap := by simp [hmap]
    exact (by decide : ∀ p ∈ registerMap, p.1 = p.2.offset) _ hmem
  · rintro rfl; exact registerAt_offset r

/-- A register's offset is a multiple of 4 within the window. -/
theorem Reg.offset_bounds (r : Reg) : r.offset < 64 ∧ r.offset % 4 = 0 := by
  cases r with
  | gen i => simp [Reg.offset]; omega
  | reserved i => simp [Reg.offset]; omega
  | _ => decide

/-- Every multiple of 4 in the window is a register's offset (R21). -/
theorem exists_offset_eq {off : Nat} (hlt : off < 64) (hmul : off % 4 = 0) : ∃ r : Reg, off = r.offset := by
  have hsome := (by decide : ∀ off < 64, off % 4 = 0 → (registerAt off).isSome = true) off hlt hmul
  obtain ⟨r, hr⟩ := Option.isSome_iff_exists.mp hsome
  exact ⟨r, registerAt_eq_some_iff.mp hr⟩

/-- An access is accepted for a register exactly when it is a 32-bit access at the register's offset (R36). -/
theorem Access.accepted_iff {a : Access} {r : Reg} :
    (a.inWindow = true ∧ a.target = some r) ↔ a.size = 4 ∧ a.off = r.offset := by
  have hb := r.offset_bounds
  simp only [Access.inWindow, Access.target, Bool.and_eq_true, decide_eq_true_eq,
    Option.ite_none_right_eq_some, registerAt_eq_some_iff]
  omega

/-- What a register shows does not depend on the events to come. -/
@[simp] theorem readValue_setPending (r : Reg) (s : State) (es : List HostEvent) :
    readValue r (s.setPending es) = readValue r s := by
  cases r <;> rfl

/-! ### One step on the next event (20_memory.md R36, R40 to R43) -/

/-- A step handles the next event at the state it leaves the stream of (R43). -/
theorem step_of_pending {s : State} {e : HostEvent} {es : List HostEvent} (h : s.pending = e :: es) :
    step s = handle e (s.setPending es) := by
  simp [step, h]

/-- A step on a 32-bit read of a register answers its value and does what a read of it does (R36, R87). -/
theorem step_rd {r : Reg} {s : State} {es : List HostEvent} (h : s.pending = rd r.offset :: es) :
    step s = .next ((afterRead r (s.setPending es)).record (rd r.offset) (some (.data (readValue r s)))) := by
  obtain ⟨hw, ht⟩ := Access.accepted_iff (a := ⟨.read, r.offset, 4, 0#32⟩).mpr ⟨rfl, rfl⟩
  rw [step_of_pending h]
  simp [rd, handle, access, hw, ht, answered]

/-- A step on a 32-bit write of a register does what a write of it does and answers its completion (R36, R87). -/
theorem step_wr {r : Reg} {d : Word} {s : State} {es : List HostEvent} (h : s.pending = wr r.offset d :: es) :
    step s = answered (wr r.offset d) .ok (writeRegister r d (s.setPending es)) := by
  obtain ⟨hw, ht⟩ := Access.accepted_iff (a := ⟨.write, r.offset, 4, d⟩).mpr ⟨rfl, rfl⟩
  rw [step_of_pending h]
  simp [wr, handle, access, hw, ht]

/-- A 32-bit read of a register other than DOUT answers `value` and has no side effect, when that is what the
register shows (R41). -/
theorem readsAs_offset {r : Reg} {value : State → Word} (hr : r ≠ .dout) (hv : ∀ s, readValue r s = value s) :
    ReadsAs r.offset value := by
  intro s es hp
  rw [step_rd hp, afterRead_of_ne_dout _ hr, hv]
  rfl

/-- A 32-bit write of a register other than CMD and CTRL completes and is ignored (R40). -/
theorem writeIgnored_offset {r : Reg} (hcmd : r ≠ .cmd) (hctrl : r ≠ .ctrl) : WriteIgnored r.offset := by
  intro s es d hp
  obtain ⟨h, -⟩ | ⟨h, -⟩ | ⟨-, -, hwr⟩ := writeRegister_cases r d (s.setPending es)
  · exact absurd h hcmd
  · exact absurd h hctrl
  · rw [step_wr hp, hwr]
    rfl

/-! ### CVT_STATE and STATUS (10_state.md R24, R27) -/

/-- CVT_STATE on numbers: NBITS from bit 16 on, ACC below (R27). -/
theorem cvtStateWord_eq (s : State) : cvtStateWord s = BitVec.ofNat 32 (s.nbits.toNat * 2 ^ 16 + s.acc.toNat) := by
  apply BitVec.eq_of_toNat_eq
  have hacc : s.acc.toNat < 2 ^ 16 := by omega
  rw [← Nat.shiftLeft_eq, Nat.shiftLeft_add_eq_or_of_lt hacc]
  have hnbits : s.nbits.toNat % 4294967296 = s.nbits.toNat := by omega
  simp [cvtStateWord, hnbits]

/-- `zext_32(v) << lo`: the value of a register's field `[lo + n - 1 : lo]`, the other bits zero. -/
def placed {n : Nat} (v : BitVec n) (lo : Nat) : Word := v.setWidth 32 <<< lo

/-- A field shows the value placed in it. -/
theorem field_placed_same {n lo : Nat} (v : BitVec n) (h : lo + n ≤ 32) : field (placed v lo) lo n = v := by
  ext i hi
  simp [placed, field, show lo + i < 32 by omega, BitVec.getLsbD_eq_getElem hi]

/-- A field shows nothing of a value placed outside it. -/
theorem field_placed_disjoint {n lo lo' len : Nat} (v : BitVec n) (h : lo' + len ≤ lo ∨ lo + n ≤ lo') :
    field (placed v lo) lo' len = 0#len := by
  ext i hi
  simp only [placed, BitVec.getElem_extractLsb', BitVec.getLsbD_shiftLeft, BitVec.getLsbD_setWidth]
  obtain habove | hbelow := h
  · simp [show lo' + i < lo by omega]
  · simp [BitVec.getLsbD_of_ge v (lo' + i - lo) (by omega)]

/-- A field of a disjunction is the disjunction of the fields. -/
theorem field_or (v w : Word) (lo len : Nat) : field (v ||| w) lo len = field v lo len ||| field w lo len :=
  BitVec.extractLsb'_or

/-- STATUS is its five fields, each in its place (R24). -/
theorem statusWord_eq (s : State) :
    statusWord s = placed (BitVec.ofBool s.err) 0 ||| placed s.ecode.code 4 ||| placed (BitVec.ofBool s.cvtDone) 8
      ||| placed (BitVec.ofBool s.chkOk) 9 ||| placed (BitVec.ofNat 7 s.outq.length) 16 := by
  simp [statusWord, placed, bit]

/-! ### What an event can do (20_memory.md R40, R41, 40_control.md R61) -/

/-- An answered outcome goes on exactly where the outcome does, with the answer recorded. -/
theorem answered_eq_next {e : HostEvent} {r : Reply} {o : Outcome} {t : State} (h : answered e r o = .next t) :
    ∃ u, o = .next u ∧ t = u.record e (some r) := by
  cases o with
  | next u => exact ⟨u, rfl, (Host.Outcome.next.inj h).symm⟩
  | fault f => cases h
  | refused f => cases h

/-- What an access leaves (R40, R41): the record alone, or the pop of a DOUT read, or the two bits of a CTRL
write, or the result of a CMD write's word. -/
theorem access_next_cases {a : Access} {s t : State} (h : access a s = .next t) :
    (∃ reply, t = s.record (.access a) reply) ∨
    (a.kind = .read ∧ a.off = 0x10 ∧ a.size = 4 ∧
      t = (s.setOutq s.outq.tail).record (.access a) (some (.data (doutWord s.outq)))) ∨
    (∃ d, .access a = wr 0x04 d ∧
      t = (s.setCtrl (d.getLsbD 0) (d.getLsbD 1)).record (.access a) (some .ok)) ∨
    (∃ w u, .access a = wrCmd w ∧ execute w s = .next u ∧ t = u.record (.access a) (some .ok)) := by
  obtain ⟨-, ha⟩ | ⟨-, -, ha⟩ | ⟨hw, r, ht, hk, ha⟩ | ⟨hw, r, ht, hk, ha⟩ := access_cases a s <;> rw [ha] at h
  · exact .inl ⟨_, (Host.Outcome.next.inj h).symm⟩
  · exact .inl ⟨_, (Host.Outcome.next.inj h).symm⟩
  · obtain rfl := Host.Outcome.next.inj h
    obtain ⟨hsize, hoff⟩ := Access.accepted_iff.mp ⟨hw, ht⟩
    by_cases hr : r = .dout
    · subst hr
      exact .inr (.inl ⟨hk, hoff, hsize, rfl⟩)
    · exact .inl ⟨_, by rw [afterRead_of_ne_dout s hr]⟩
  · obtain ⟨u, hu, rfl⟩ := answered_eq_next h
    obtain ⟨hsize, hoff⟩ := Access.accepted_iff.mp ⟨hw, ht⟩
    obtain ⟨rfl, hwr⟩ | ⟨rfl, hwr⟩ | ⟨-, -, hwr⟩ := writeRegister_cases r a.data s <;> rw [hwr] at hu
    · exact .inr (.inr (.inr ⟨a.data, u, by cases a; simp_all [wrCmd, wr, Reg.offset], hu, rfl⟩))
    · obtain rfl := Host.Outcome.next.inj hu
      exact .inr (.inr (.inl ⟨a.data, by cases a; simp_all [wr, Reg.offset], rfl⟩))
    · obtain rfl := Host.Outcome.next.inj hu
      exact .inl ⟨_, rfl⟩

/-- What a command word leaves: the result of its command, or for an ILLEGAL word the state itself or
ILLEGAL_COMMAND raised (R61). -/
theorem execute_next_cases {w : Word} {s t : State} (h : execute w s = .next t) :
    (∃ i, decode w = .ok i ∧ exec i s = .next t) ∨ t = s ∨ t = s.raise .illegalCommand := by
  obtain ⟨i, hd, he⟩ | ⟨-, -, he⟩ := execute_cases w s <;> rw [he] at h
  · exact .inl ⟨i, hd, h⟩
  · obtain rfl := Host.Outcome.next.inj h
    obtain ⟨-, ho⟩ | ⟨-, ho⟩ := s.obey_cases fun t => t.raise .illegalCommand
    · exact .inr (.inl ho)
    · exact .inr (.inr ho)

/-- Only the word 0x01000000 decodes to INIT (R64). -/
theorem eq_of_decode_init {w : Word} (h : decode w = .ok .init) : w = 0x01000000#32 := by
  obtain ⟨r, hr, hs, hi⟩ := decode_ok_cases h
  rw [OpcodeRow.selects_iff] at hs
  simp only [opcodeTable, List.mem_cons, List.not_mem_nil, or_false] at hr
  have hmask : w &&& 0xFFFFFFFF#32 = w := BitVec.and_allOnes
  rcases hr with rfl | rfl | rfl | rfl | rfl | rfl | rfl | rfl | rfl <;> simp_all

/-! ### The obligations of 10_state.md -/

/-- Settles O34, command by command from what each writes. -/
theorem onlyNamedCommandsWriteAnElement : Obligations.OnlyNamedCommandsWriteAnElement := by
  unfold Obligations.OnlyNamedCommandsWriteAnElement
  intro i s t h
  obtain ⟨rfl, he⟩ | ⟨rfl, he⟩ | ⟨v, rfl, he⟩ | ⟨rfl, he⟩ | ⟨v, hi, he⟩ | ⟨rfl, he⟩ | ⟨rfl, he⟩ :=
    exec_cases i s <;> obtain rfl := Host.Outcome.next.inj (he.symm.trans h)
  · simp
  · simp
  · obtain ⟨acc, nbits, ws, err, ecode, hw⟩ := obey_cvtPush_writes v s
    rw [hw]; simp +contextual
  · obtain ⟨nbits, done, ws, err, ecode, hw⟩ := obey_cvtFlush_writes s
    rw [hw]; simp +contextual
  · obtain ⟨chkAcc, hw⟩ := obey_stepChk_writes v s
    rw [hw]
    obtain rfl | ⟨c, rfl, -⟩ | ⟨c, rfl, -⟩ := hi <;> simp
  · obtain ⟨chkAcc, csum, ws, err, ecode, hw⟩ := obey_chkCreate_writes s
    rw [hw]; simp
  · obtain ⟨chkOk, hw⟩ := obey_chkVerify_writes s
    rw [hw]; simp

/-- No command word touches PAD and CHAIN (R18). -/
theorem execute_keeps_ctrl {w : Word} {s t : State} (h : execute w s = .next t) :
    t.pad = s.pad ∧ t.chain = s.chain := by
  obtain ⟨i, -, he⟩ | rfl | rfl := execute_next_cases h
  · obtain ⟨-, -, -, -, -, -, -, -, hpad, hchain, -⟩ := onlyNamedCommandsWriteAnElement i s t he
    exact ⟨hpad, hchain⟩
  · exact ⟨rfl, rfl⟩
  · exact ⟨rfl, rfl⟩

/-- Settles O35: an event that is neither a CTRL write nor a reset keeps both elements. -/
theorem onlyTheHostWritesCtrl : Obligations.OnlyTheHostWritesCtrl := by
  unfold Obligations.OnlyTheHostWritesCtrl
  intro s t e es hp hs hne
  rw [step_of_pending hp] at hs
  cases e with
  | reset => exact .inr (.inl rfl)
  | resetDuring a => exact .inr (.inr ⟨a, rfl⟩)
  | access a =>
    obtain ⟨reply, rfl⟩ | ⟨-, -, -, rfl⟩ | ⟨d, ha, -⟩ | ⟨w, u, -, hu, rfl⟩ := access_next_cases hs
    · simp at hne
    · simp at hne
    · exact .inl ⟨d, ha⟩
    · obtain ⟨hpad, hchain⟩ := execute_keeps_ctrl hu
      simp [hpad, hchain] at hne

/-- Settles O36: the exact INIT word and the resets empty OUTQ, a DOUT read takes its head, any other event
appends. -/
theorem queueIsFirstInFirstOut : Obligations.QueueIsFirstInFirstOut := by
  unfold Obligations.QueueIsFirstInFirstOut
  intro s t hs
  obtain ⟨-, hstep⟩ | ⟨e, es, hp, hstep⟩ := step_cases s <;> rw [hstep] at hs
  · obtain rfl := Host.Outcome.next.inj hs
    exact .inr (.inl ⟨[], by simp⟩)
  cases e with
  | reset =>
    obtain rfl := Host.Outcome.next.inj hs
    exact .inl ⟨rfl, _, es, hp, rfl⟩
  | resetDuring a =>
    obtain rfl := Host.Outcome.next.inj hs
    exact .inl ⟨rfl, _, es, hp, rfl⟩
  | access a =>
    obtain ⟨reply, rfl⟩ | ⟨-, -, -, rfl⟩ | ⟨d, -, rfl⟩ | ⟨w, u, ha, hu, rfl⟩ := access_next_cases hs
    · exact .inr (.inl ⟨[], by simp⟩)
    · cases hq : s.outq with
      | nil => exact .inr (.inl ⟨[], by simp [hq]⟩)
      | cons w ws => exact .inr (.inr ⟨w, .access a, by simp [hq], by simp [hq, doutWord]⟩)
    · exact .inr (.inl ⟨[], by simp⟩)
    · obtain ⟨i, hd, he⟩ | rfl | rfl := execute_next_cases hu
      · obtain ⟨rfl, hq⟩ | ⟨ws, hq⟩ := exec_outq he
        · obtain rfl := eq_of_decode_init hd
          exact .inl ⟨hq, _, es, hp, by rw [ha]; rfl⟩
        · exact .inr (.inl ⟨ws, hq⟩)
      · exact .inr (.inl ⟨[], by simp⟩)
      · exact .inr (.inl ⟨[], by simp⟩)

/-- Settles O40, field by field. -/
theorem statusShowsItsFields : Obligations.StatusShowsItsFields := by
  refine ⟨readsAs_offset (r := .status) (by decide) fun _ => rfl, fun s hlen => ?_⟩
  rw [statusWord_eq]
  have hcount : s.outq.length < 128 := by omega
  simp (disch := decide) [field_or, field_placed_same, field_placed_disjoint, Nat.mod_eq_of_lt hcount]
  cases s.ecode <;> rfl

/-- Settles O42: the two layouts on numbers, and the generator constants by evaluation. -/
theorem observationRegistersRead : Obligations.ObservationRegistersRead :=
  ⟨readsAs_offset (r := .cvtState) (by decide) cvtStateWord_eq,
    readsAs_offset (r := .chkAcc) (by decide) fun s => BitVec.ofNat_toNat .. |>.symm,
    readsAs_offset (r := .csum) (by decide) fun s => BitVec.ofNat_toNat .. |>.symm,
    readsAs_offset (r := .gen 0) (by decide) fun _ => rfl,
    readsAs_offset (r := .gen 1) (by decide) fun _ => rfl,
    readsAs_offset (r := .gen 2) (by decide) fun _ => rfl,
    readsAs_offset (r := .gen 3) (by decide) fun _ => rfl,
    readsAs_offset (r := .gen 4) (by decide) fun _ => rfl⟩

/-- Settles O43: CMD and the reserved registers one by one, the ignored writes by their offsets. -/
theorem zeroReadsAndIgnoredWrites : Obligations.ZeroReadsAndIgnoredWrites := by
  constructor
  · simp only [List.forall_mem_cons]
    exact ⟨readsAs_offset (r := .cmd) (by decide) fun _ => rfl,
      readsAs_offset (r := .reserved 0) (by decide) fun _ => rfl,
      readsAs_offset (r := .reserved 1) (by decide) fun _ => rfl,
      readsAs_offset (r := .reserved 2) (by decide) fun _ => rfl, nofun⟩
  · intro off hmem
    obtain ⟨hlt, hmul, hctrl, hcmd⟩ : off < 64 ∧ off % 4 = 0 ∧ off ≠ 0x04 ∧ off ≠ 0x0C := by
      simp only [List.mem_cons, List.not_mem_nil, or_false] at hmem
      omega
    obtain ⟨r, rfl⟩ := exists_offset_eq hlt hmul
    exact writeIgnored_offset (by rintro rfl; exact hcmd rfl) (by rintro rfl; exact hctrl rfl)

/-- Settles O48: both kinds of reset are handled by the same update of the block. -/
theorem resetGivesEveryElement : Obligations.ResetGivesEveryElement := by
  refine ⟨fun s e es he hp => ?_, rfl⟩
  rw [step_of_pending hp]
  obtain rfl | ⟨a, rfl⟩ := he <;> rfl

/-- Settles O49, by evaluating the invariant at the reset state. -/
theorem resetMeetsTheInvariant : Obligations.ResetMeetsTheInvariant := by
  unfold Obligations.ResetMeetsTheInvariant
  decide

end Sys2Proof.Machine

/-!
SUPPORT. The statements of spec/20_memory.md: the window and the answers of its accesses (R34 to R43), then the
converter's output as the bit stream (R39).
-/

namespace Sys2Proof.Machine

/-! ### The window (20_memory.md R34 to R37) -/

/-- An access is in the window when its distance from BASE is one of the window's 64 byte offsets (R34). -/
theorem Access.inWindow_iff {a : Access} : a.inWindow = true ↔ 0 ≤ a.off ∧ a.off < 64 := by
  simp [Access.inWindow]

/-- A window access that a register accepts is a 32-bit access at a multiple of 4 (R36). -/
theorem Access.aligned_of_target {a : Access} {r : Reg} (hw : a.inWindow = true) (ht : a.target = some r) :
    a.size = 4 ∧ a.off % 4 = 0 := by
  obtain ⟨hsize, hoff⟩ := Access.accepted_iff.mp ⟨hw, ht⟩
  have hr := r.offset_bounds
  omega

/-- Inside the window exactly the accesses R37 lists are accepted for no register. -/
theorem Access.target_eq_none_iff {a : Access} (hw : a.inWindow = true) :
    a.target = none ↔ a.size ≠ 4 ∨ a.off % 4 ≠ 0 := by
  cases ht : a.target with
  | some r => simp [Access.aligned_of_target hw ht]
  | none =>
    simp only [true_iff]
    by_contra hacc
    obtain ⟨hlo, hhi⟩ := Access.inWindow_iff.mp hw
    obtain ⟨r, hr⟩ := exists_offset_eq (off := a.off.toNat) (by omega) (by omega)
    obtain ⟨-, hsome⟩ := Access.accepted_iff (a := a) (r := r).mpr (by omega)
    simp [ht] at hsome

/-- BASE is a multiple of 64 (R35). -/
theorem base_mod_window : Config.base % 64 = 0 := Nat.mul_mod_right 64 Config.baseBlock

/-- BASE being a multiple of 64, the address bits above bit 5 select the window (R35). -/
theorem inWindow_sub_base_iff (a : Access) {addr : Nat} (ha : a.off = addr - Config.base) :
    a.inWindow = true ↔ addr / 64 = Config.base / 64 := by
  have hbase := base_mod_window
  rw [Access.inWindow_iff, ha]
  omega

/-- Settles O46, by arithmetic on BASE = 64 times a constant. -/
theorem addressSelectsTheWindow : Obligations.AddressSelectsTheWindow := by
  have hbase := base_mod_window
  refine ⟨hbase, fun addr n v =>
    ⟨_, _, rfl, rfl, inWindow_sub_base_iff _ rfl, inWindow_sub_base_iff _ rfl, fun h => ?_⟩⟩
  constructor <;> show (addr : Int) - Config.base = (addr % 64 : Nat) <;> omega

/-- Settles O45: inside the window such an access is accepted for no register. -/
theorem otherAccessesAreRefused : Obligations.OtherAccessesAreRefused := by
  intro a s hlo hhi href
  have hw := Access.inWindow_iff.mpr ⟨hlo, hhi⟩
  have ht := (Access.target_eq_none_iff hw).mpr href
  obtain ⟨hout, -⟩ | ⟨-, -, ha⟩ | ⟨-, r, hr, -⟩ | ⟨-, r, hr, -⟩ := access_cases a s
  · simp [hw] at hout
  · exact ha
  · simp [ht] at hr
  · simp [ht] at hr

/-- Settles O47: every case of an access but the first is one of the window. -/
theorem noResponseOutsideTheWindow : Obligations.NoResponseOutsideTheWindow := by
  intro a s hout
  have hnw : ¬ a.inWindow = true := by rw [Access.inWindow_iff]; omega
  obtain ⟨-, ha⟩ | ⟨hw, -⟩ | ⟨hw, -⟩ | ⟨hw, -⟩ := access_cases a s
  · exact ha
  · exact absurd hw hnw
  · exact absurd hw hnw
  · exact absurd hw hnw

/-! ### Which accesses have effects (20_memory.md R40, R41) -/

/-- What a register shows does not depend on the record of the past. -/
@[simp] theorem readValue_record (r : Reg) (s : State) (e : HostEvent) (reply : Option Reply) :
    readValue r (s.record e reply) = readValue r s := by
  cases r <;> rfl

/-- What the platform or the block answers to a read of the window at a state: the bus error if no register accepts
it, otherwise the register's value (R37, R87). -/
def readReply (a : Access) (s : State) : Reply :=
  match a.target with
  | none   => .busError Config.busErrorResponse
  | some r => .data (readValue r s)

/-- A read that is not at DOUT's offset leaves the record alone, and what is recorded as its answer, if anything, is
`readReply` (R41). -/
theorem access_read_next {a : Access} {s t : State} (hk : a.kind = .read) (hoff : a.off ≠ 0x10)
    (h : access a s = .next t) :
    t = s.record (.access a) none ∨ t = s.record (.access a) (some (readReply a s)) := by
  obtain ⟨-, ha⟩ | ⟨-, ht, ha⟩ | ⟨hw, r, ht, -, ha⟩ | ⟨-, -, -, hwr, -⟩ := access_cases a s
  · exact .inl (Host.Outcome.next.inj (h.symm.trans ha))
  · exact .inr (by simpa [readReply, ht] using Host.Outcome.next.inj (h.symm.trans ha))
  · have hr : r ≠ .dout := by
      rintro rfl
      exact hoff (Access.accepted_iff.mp ⟨hw, ht⟩).2
    rw [afterRead_of_ne_dout s hr] at ha
    exact .inr (by simpa [readReply, ht] using Host.Outcome.next.inj (h.symm.trans ha))
  · simp [hk] at hwr

/-- An answer recorded for a read that is not at DOUT's offset is `readReply`. -/
theorem eq_readReply_of_recorded {a : Access} {s t : State} {x : Reply} (hk : a.kind = .read) (hoff : a.off ≠ 0x10)
    (h : access a s = .next t) (hist : t.history = ⟨.access a, some x, s.err⟩ :: s.history) :
    x = readReply a s := by
  obtain rfl | rfl := access_read_next hk hoff h
  · simp at hist
  · simpa using hist.symm

/-- The answer to a read depends on its offset and size alone, and no recorded event changes it. -/
theorem readReply_record {a b : Access} (hoff : b.off = a.off) (hsize : b.size = a.size) (s : State) (e : HostEvent)
    (reply : Option Reply) : readReply b (s.record e reply) = readReply a s := by
  have ht : b.target = a.target := by simp [Access.target, hoff, hsize]
  simp [readReply, ht]

/-- Settles O44: every access but the three leaves the record alone, and a read answers from what it leaves. -/
theorem onlyThreeAccessesHaveEffects : Obligations.OnlyThreeAccessesHaveEffects := by
  refine ⟨fun a s t h hother => ?_, fun a b s t u x y hak haoff hbk hoff hsize ha hb hx hy => ?_⟩
  · obtain ⟨reply, rfl⟩ | ⟨hk, hoff, hsize, -⟩ | ⟨d, hctrl, -⟩ | ⟨w, -, hcmd, -⟩ := access_next_cases h
    · rfl
    · exact absurd ⟨hsize, .inr ⟨hk, hoff⟩⟩ hother
    · obtain rfl := HostEvent.access.inj hctrl
      exact absurd ⟨rfl, .inl ⟨rfl, .inr rfl⟩⟩ hother
    · obtain rfl := HostEvent.access.inj hcmd
      exact absurd ⟨rfl, .inl ⟨rfl, .inl rfl⟩⟩ hother
  · rw [eq_readReply_of_recorded hak haoff ha hx, eq_readReply_of_recorded hbk (hoff ▸ haoff) hb hy]
    obtain rfl | rfl := access_read_next hak haoff ha <;> exact (readReply_record hoff hsize _ _ _).symm

/-! ### A command word as the next event (20_memory.md R46, 40_control.md R61) -/

/-- A word that decodes runs its command. -/
theorem execute_of_decode {w : Word} {i : Instr} (h : decode w = .ok i) (s : State) : execute w s = exec i s := by
  simp [execute, h]

/-- The decoder reads a command from a table word exactly when the 32-bit word decodes to it. -/
theorem decodeTableWord_eq_some_iff {nbits w : Nat} {i : Instr} :
    decodeTableWord nbits w = some i ↔ decode (tableWord nbits w) = .ok i := by
  unfold decodeTableWord
  cases decode (tableWord nbits w) <;> simp

/-- A step on a CMD write of a word that decodes runs the command and answers the write's completion (R61, R91). -/
theorem step_wrCmd_of_decode {s : State} {es : List HostEvent} {w : Word} {i : Instr} (hp : s.pending = wrCmd w :: es)
    (hd : decode w = .ok i) : step s = answered (wrCmd w) .ok (exec i (s.setPending es)) := by
  rw [← execute_of_decode hd]
  exact step_wr (r := .cmd) hp

/-- Settles O8: the placed write is the next event, and taking it leaves the state it was placed at. -/
theorem fetchWordRunsNext : Obligations.FetchWordRunsNext := by
  intro s t nbits w i hd he
  have hp : (s.withFetchWord nbits w).pending = wrCmd (tableWord nbits w) :: s.pending := rfl
  have hs : (s.withFetchWord nbits w).setPending s.pending = s := rfl
  rw [step_wrCmd_of_decode hp (decodeTableWord_eq_some_iff.mp hd), hs, he]
  rfl

/-! ### Every event is handled and answered (20_memory.md R37, R42, R43, 43_host_access.md R87) -/

/-- Every command goes on. -/
theorem exec_total (i : Instr) (s : State) : ∃ t, exec i s = .next t := by
  cases i <;> exact ⟨_, rfl⟩

/-- Every command word goes on and touches neither the events to come nor the record. -/
theorem execute_total (w : Word) (s : State) :
    ∃ t, execute w s = .next t ∧ t.pending = s.pending ∧ t.history = s.history := by
  obtain ⟨i, -, he⟩ | ⟨-, -, he⟩ := execute_cases w s
  · obtain ⟨t, ht⟩ := exec_total i s
    obtain ⟨-, -, -, -, -, -, -, -, -, -, hpend, hhist⟩ := onlyNamedCommandsWriteAnElement i s t ht
    exact ⟨t, he.trans ht, hpend, hhist⟩
  · obtain ⟨-, ho⟩ | ⟨-, ho⟩ := s.obey_cases fun t => t.raise .illegalCommand <;>
      exact ⟨_, he, by simp [ho], by simp [ho]⟩

/-- Every write of a register goes on and touches neither the events to come nor the record. -/
theorem writeRegister_total (r : Reg) (d : Word) (s : State) :
    ∃ t, writeRegister r d s = .next t ∧ t.pending = s.pending ∧ t.history = s.history := by
  obtain ⟨-, hwr⟩ | ⟨-, hwr⟩ | ⟨-, -, hwr⟩ := writeRegister_cases r d s <;> rw [hwr]
  · exact execute_total d s
  · exact ⟨_, rfl, rfl, rfl⟩
  · exact ⟨_, rfl, rfl, rfl⟩

/-- A read of a register touches neither the events to come nor the record. -/
theorem afterRead_keeps_host (r : Reg) (s : State) :
    (afterRead r s).pending = s.pending ∧ (afterRead r s).history = s.history := by
  cases r <;> exact ⟨rfl, rfl⟩

/-- The reply is the one R87 gives the access: a value or OK if it is accepted, the platform's response if it is
refused, none outside the window. -/
def Access.AnsweredWith (a : Access) (reply : Option Reply) : Prop :=
  (a.inWindow = true → a.size = 4 → a.off % 4 = 0 → a.kind = .read → ∃ v, reply = some (.data v)) ∧
  (a.inWindow = true → a.size = 4 → a.off % 4 = 0 → a.kind = .write → reply = some .ok) ∧
  (a.inWindow = true → (a.size ≠ 4 ∨ a.off % 4 ≠ 0) → reply = some (.busError Config.busErrorResponse)) ∧
  (a.inWindow = false → reply = none)

/-- The reply of a handled event that is an access is the one R87 gives it. -/
def Handled.Answered (x : Handled) : Prop := ∀ a, x.event = .access a → a.AnsweredWith x.reply

/-- Every access completes, the record growing by it and by the answer R87 gives it. -/
theorem access_total (a : Access) (s : State) :
    ∃ t reply, access a s = .next t ∧ t.pending = s.pending ∧
      t.history = ⟨.access a, reply, t.err⟩ :: s.history ∧ a.AnsweredWith reply := by
  obtain ⟨hw, ha⟩ | ⟨hw, ht, ha⟩ | ⟨hw, r, ht, hk, ha⟩ | ⟨hw, r, ht, hk, ha⟩ := access_cases a s
  · exact ⟨_, none, ha, rfl, rfl, by simp [Access.AnsweredWith, hw]⟩
  · have href := (Access.target_eq_none_iff hw).mp ht
    exact ⟨_, _, ha, rfl, rfl, by simp [Access.AnsweredWith, hw]; omega⟩
  · obtain ⟨hsize, hoff⟩ := Access.aligned_of_target hw ht
    obtain ⟨hpend, hhist⟩ := afterRead_keeps_host r s
    exact ⟨_, some (.data (readValue r s)), ha, hpend, by simp [hhist],
      by simp [Access.AnsweredWith, hw, hk, hsize, hoff]⟩
  · obtain ⟨hsize, hoff⟩ := Access.aligned_of_target hw ht
    obtain ⟨u, hu, hpend, hhist⟩ := writeRegister_total r a.data s
    exact ⟨u.record (.access a) (some .ok), some .ok, by rw [ha, hu]; rfl, hpend, by simp [hhist],
      by simp [Access.AnsweredWith, hw, hk, hsize, hoff]⟩

/-- A step with an event to come handles it, the record growing by it and by its answer. -/
theorem step_handles {s : State} {e : HostEvent} {es : List HostEvent} (hp : s.pending = e :: es) :
    ∃ t x, step s = .next t ∧ t.pending = es ∧ t.history = x :: s.history ∧ x.event = e ∧ x.Answered := by
  rw [step_of_pending hp]
  cases e with
  | access a =>
    obtain ⟨t, reply, ha, hpend, hhist, hans⟩ := access_total a (s.setPending es)
    refine ⟨t, _, ha, hpend, hhist, rfl, fun b hb => ?_⟩
    obtain rfl := HostEvent.access.inj hb
    exact hans
  | reset => exact ⟨_, _, rfl, rfl, rfl, rfl, nofun⟩
  | resetDuring a => exact ⟨_, _, rfl, rfl, rfl, rfl, nofun⟩

/-- A run's first step, when it goes on. -/
theorem run_succ_of_step {s u : State} (h : step s = .next u) (k : Nat) :
    Host.Core.run core (k + 1) s = Host.Core.run core k u := by
  have hcore : core.step s = .next u := h
  simp only [Host.Core.run, hcore]

/-- Settles O51, by induction on the events to handle. -/
theorem eventsCompleteInOrder : Obligations.EventsCompleteInOrder := by
  intro s es rest hp
  suffices ∃ (t : State) (done : List Handled), Host.Core.run core es.length s = .next t ∧ t.pending = rest ∧
      t.history = done.reverse ++ s.history ∧ done.map Handled.event = es ∧ ∀ x ∈ done, x.Answered from this
  induction es generalizing s with
  | nil => exact ⟨s, [], rfl, hp, rfl, rfl, nofun⟩
  | cons e es ih =>
    obtain ⟨u, x, hstep, hpend, hhist, hx, hans⟩ := step_handles hp
    obtain ⟨t, done, hrun, hrest, hdone, hevents, hall⟩ := ih u hpend
    exact ⟨t, x :: done, (run_succ_of_step hstep es.length).trans hrun, hrest, by simp [hdone, hhist],
      by simp [hx, hevents], List.forall_mem_cons.mpr ⟨hans, hall⟩⟩

/-! ### The bit stream and its words (20_memory.md R39) -/

/-- More bytes at the end leave the bits before them as they are. -/
theorem streamBit_append_of_lt {bs : List Octet} {k : Nat} (cs : List Octet) (h : k < 8 * bs.length) :
    streamBit (bs ++ cs) k = streamBit bs k := by
  simp [streamBit, List.getElem?_append_left (show k / 8 < bs.length by omega)]

/-- The eight bits of a byte at the end, its bit 0 the last. -/
theorem streamBit_concat_last (bs : List Octet) (b : Octet) {i : Nat} (h : i < 8) :
    streamBit (bs ++ [b]) (8 * bs.length + 7 - i) = b.getLsbD i := by
  have hbyte : (8 * bs.length + 7 - i) / 8 = bs.length := by omega
  have hbit : 7 - (8 * bs.length + 7 - i) % 8 = i := by omega
  simp [streamBit, hbyte, hbit]

/-- From the end of the input on the stream is 0. -/
theorem streamBit_of_ge {bs : List Octet} {k : Nat} (h : 8 * bs.length ≤ k) : streamBit bs k = false := by
  simp [streamBit, List.getElem?_eq_none (show bs.length ≤ k / 8 by omega)]

/-- The sum of R39 has stream bit `5j + 4 - i` as its bit `i`. -/
theorem getLsbD_streamWord (bs : List Octet) (j : Nat) {i : Nat} (h : i < 5) :
    (streamWord bs j).getLsbD i = streamBit bs (5 * j + 4 - i) := by
  have hfive : ∀ b₀ b₁ b₂ b₃ b₄ : Bool, ∀ i < 5,
      (BitVec.ofNat 5 ([b₀, b₁, b₂, b₃, b₄].mapIdx fun t b => b.toNat <<< (4 - t)).sum).getLsbD i =
        [b₀, b₁, b₂, b₃, b₄].getD (4 - i) false := by decide
  have hbits := hfive (streamBit bs (5 * j)) (streamBit bs (5 * j + 1)) (streamBit bs (5 * j + 2))
    (streamBit bs (5 * j + 3)) (streamBit bs (5 * j + 4)) i h
  interval_cases i <;> exact hbits

/-- More bytes at the end leave the words within the bits before them as they are. -/
theorem streamWord_append_of_le {bs : List Octet} {j : Nat} (cs : List Octet) (h : 5 * (j + 1) ≤ 8 * bs.length) :
    streamWord (bs ++ cs) j = streamWord bs j := by
  refine BitVec.eq_of_getLsbD_eq fun i hi => ?_
  rw [getLsbD_streamWord _ _ hi, getLsbD_streamWord _ _ hi, streamBit_append_of_lt _ (by omega)]

/-! ### The words and ACC bit by bit (41_converter.md R67, R70) -/

/-- Bit `i` of the top word is ACC's bit `i` above the bits that stay buffered. -/
theorem getLsbD_topWord (acc : BitVec 12) (n : BitVec 4) {i : Nat} (h : i < 5) :
    (topWord acc n).getLsbD i = acc.getLsbD (n.toNat + i) := by
  rw [topWord_eq, BitVec.getLsbD_ofNat, Nat.testBit_div_two_pow, BitVec.testBit_toNat, Nat.add_comm]
  simp [h]

/-- Bit `i` of the tail word is a buffered bit in its upper part, 0 below. -/
theorem getLsbD_tailWord (acc : BitVec 12) (n : BitVec 4) {i : Nat} (h : i < 5) :
    (tailWord acc n).getLsbD i = (decide (5 - n.toNat ≤ i) && acc.getLsbD (i - (5 - n.toNat))) := by
  rw [tailWord_eq, BitVec.getLsbD_ofNat, Nat.testBit_mul_two_pow, BitVec.testBit_toNat]
  simp [h]

/-- ACC after a push: the byte's bits below, the old bits eight places higher. -/
theorem getLsbD_shiftIn (acc : BitVec 12) (b : Octet) {i : Nat} (h : i < 12) :
    (shiftIn acc (b.setWidth 24)).getLsbD i = if i < 8 then b.getLsbD i else acc.getLsbD (i - 8) := by
  by_cases hi : i < 8
  · simp [shiftIn, h, hi]
  · rw [BitVec.getLsbD_eq_getElem (show i - 8 < 12 by omega)]
    simp [shiftIn, h, hi, BitVec.getLsbD_of_ge b i (by omega)]

/-! ### The converter holds the stream (20_memory.md R39, 41_converter.md R67 to R72) -/

/-- The input's bits are those of the queued words, then those still buffered in ACC: no bit is lost or out of
place. -/
structure State.HoldsStream (s : State) (bs : List Octet) : Prop where
  count : 5 * s.outq.length + s.nbits.toNat = 8 * bs.length
  queued : s.outq = (List.range s.outq.length).map (streamWord bs)
  buffered : ∀ i < s.nbits.toNat, s.acc.getLsbD i = streamBit bs (8 * bs.length - 1 - i)

/-- The next word of the stream at the end of the queue. -/
theorem concat_streamWord {q : List Sym} {bs : List Octet} (hq : q = (List.range q.length).map (streamWord bs)) :
    q ++ [streamWord bs q.length] = (List.range (q.length + 1)).map (streamWord bs) := by
  rw [List.range_succ, List.map_append, ← hq]
  rfl

section
variable {s : State} {bs : List Octet}

/-- A top word is the stream's next word. -/
theorem State.HoldsStream.topWord_eq_streamWord (h : s.HoldsStream bs) (h5 : 5 ≤ s.nbits.toNat) :
    topWord s.acc (s.nbits - 5#4) = streamWord bs s.outq.length := by
  have hcount := h.count
  have hn : (s.nbits - 5#4).toNat = s.nbits.toNat - 5 := BitVec.toNat_sub_of_le h5
  refine BitVec.eq_of_getLsbD_eq fun i hi => ?_
  rw [getLsbD_topWord _ _ hi, getLsbD_streamWord _ _ hi, hn, h.buffered _ (by omega)]
  congr 1
  omega

/-- A round of the loop moves the stream's next word from ACC to OUTQ. -/
theorem State.HoldsStream.round (h : s.HoldsStream bs) (h5 : 5 ≤ s.nbits.toNat) :
    ((s.setNbits (s.nbits - 5#4)).emit (topWord s.acc (s.nbits - 5#4))).HoldsStream bs := by
  have hn : (s.nbits - 5#4).toNat = s.nbits.toNat - 5 := BitVec.toNat_sub_of_le h5
  have hcount := h.count
  rw [h.topWord_eq_streamWord h5, State.emit_eq]
  refine ⟨?_, ?_, fun i hi => h.buffered i ?_⟩
  · simp [hn]; omega
  · simpa using concat_streamWord h.queued
  · simp [hn] at hi; omega

/-- The loop of a push only moves words of the stream from ACC to OUTQ. -/
theorem State.HoldsStream.emitWhole (h : s.HoldsStream bs) (rounds : Nat) :
    (emitWhole rounds s).HoldsStream bs := by
  induction rounds generalizing s with
  | zero => exact h
  | succ rounds ih =>
    by_cases h5 : 5 ≤ s.nbits.toNat
    · rw [emitWhole_round s rounds h5]
      exact ih (h.round h5)
    · rw [emitWhole_done s _ (by omega)]
      exact h

/-- The state in which CVT_PUSH of a byte enters its loop: the byte shifted into ACC, NBITS eight more (R67). -/
abbrev State.shiftedIn (s : State) (b : Octet) : State :=
  (s.setAcc (shiftIn s.acc (b.setWidth 24))).setNbits (s.nbits + 8#4)

/-- Shifting in a byte appends its bits to the stream; twelve bits of ACC are enough for NBITS up to 4 (R10). -/
theorem State.HoldsStream.shiftedIn (h : s.HoldsStream bs) (h4 : s.nbits.toNat ≤ 4) (b : Octet) :
    (s.shiftedIn b).HoldsStream (bs ++ [b]) := by
  have hn : (s.nbits + 8#4).toNat = s.nbits.toNat + 8 := BitVec.toNat_add_of_lt (by simp; omega)
  have hcount := h.count
  refine ⟨?_, ?_, fun i hi => ?_⟩
  · simp [hn]; omega
  · refine h.queued.trans (List.map_congr_left fun j hj => ?_)
    rw [streamWord_append_of_le]
    have := List.mem_range.mp hj
    omega
  · simp only [State.setNbits_nbits, hn] at hi
    simp only [State.setNbits_acc, State.setAcc_acc, getLsbD_shiftIn _ _ (show i < 12 by omega), List.length_append,
      List.length_singleton]
    split
    · next h8 => exact (streamBit_concat_last bs b h8).symm
    · next h8 =>
      have hk : 8 * (bs.length + 1) - 1 - i = 8 * bs.length - 1 - (i - 8) := by omega
      rw [hk, streamBit_append_of_lt _ (by omega), h.buffered _ (by omega)]

/-- The tail word of a padded flush is the stream's next word, the stream being 0 from its end on. -/
theorem State.HoldsStream.tailWord_eq_streamWord (h : s.HoldsStream bs) (h4 : s.nbits.toNat ≤ 4) :
    tailWord s.acc s.nbits = streamWord bs s.outq.length := by
  have hcount := h.count
  refine BitVec.eq_of_getLsbD_eq fun i hi => ?_
  rw [getLsbD_tailWord _ _ hi, getLsbD_streamWord _ _ hi]
  by_cases hup : 5 - s.nbits.toNat ≤ i
  · rw [h.buffered _ (by omega)]
    simp only [hup, decide_true, Bool.true_and]
    congr 1
    omega
  · rw [streamBit_of_ge (by omega)]
    simp [hup]

end

/-! ### A padded conversion (41_converter.md R67, R70, R72) -/

/-- A conversion of `bs` so far without an error: the stream of `bs` is held, fewer than five bits of it buffered. -/
structure State.Converting (s : State) (bs : List Octet) : Prop where
  err : s.err = false
  cvtDone : s.cvtDone = false
  nbits_le : s.nbits.toNat ≤ 4
  holds : s.HoldsStream bs

/-- INIT begins a conversion, with nothing converted yet (R64). -/
theorem startJob_converting (s : State) : s.startJob.Converting [] :=
  ⟨rfl, rfl, Nat.zero_le 4, ⟨rfl, rfl, nofun⟩⟩

/-- A push of a byte with room for its words shifts it in and runs the loop (R67). -/
theorem cvtPush_of_room {s : State} (hd : s.cvtDone = false) (b : Octet) (hroom : pushWords s.nbits ≤ s.free) :
    cvtPush (b.setWidth 24) s = emitWhole 3 (s.shiftedIn b) := by
  have hbyte : exceedsByte (b.setWidth 24) = false := by
    rw [Bool.eq_false_iff, Ne, exceedsByte_iff, BitVec.toNat_setWidth]
    omega
  simp [cvtPush, hd, hbyte, Nat.not_lt.mpr hroom]

/-- A push whose words fit OUTQ carries the conversion on by its byte and leaves PAD alone. -/
theorem exec_cvtPush_converting {s : State} {bs : List Octet} (h : s.Converting bs) (b : Octet)
    (hfit : 8 * (bs.length + 1) / 5 ≤ 64) :
    ∃ t, exec (.cvtPush (b.setWidth 24)) s = .next t ∧ t.Converting (bs ++ [b]) ∧ t.pad = s.pad := by
  obtain ⟨herr, hdone, h4, hholds⟩ := h
  have hcount := hholds.count
  have hroom : pushWords s.nbits ≤ s.free := by rw [pushWords_eq, State.free_eq]; omega
  have hstream := (hholds.shiftedIn h4 b).emitWhole 3
  obtain ⟨ws, -, hloop⟩ := emitWhole_cases (s.shiftedIn b) 3 (by omega)
  have hexec : exec (.cvtPush (b.setWidth 24)) s = .next (emitWhole 3 (s.shiftedIn b)) :=
    congrArg Host.Outcome.next ((s.obey_of_not_err _ herr).trans (cvtPush_of_room hdone b hroom))
  refine ⟨_, hexec, ⟨?_, ?_, ?_, hstream⟩, ?_⟩ <;> rw [hloop]
  · exact herr
  · exact hdone
  · simp only [BitVec.toNat_ofNat]; omega
  · rfl

/-- The commands after some that go on run at the state those leave. -/
theorem execAll_append {is js : List Instr} {s t : State} (h : execAll is s = .next t) :
    execAll (is ++ js) s = execAll js t := by
  induction is generalizing s with
  | nil => rw [List.nil_append, Host.Outcome.next.inj h]
  | cons i is ih =>
    cases he : exec i s with
    | next u =>
      simp only [execAll, he] at h
      simp only [List.cons_append, execAll, he, ih h]
    | fault f => simp [execAll, he] at h
    | refused f => simp [execAll, he] at h

/-- The pushes of bytes whose words fit OUTQ carry the conversion on by them and leave PAD alone. -/
theorem execAll_pushCommands_converting {s : State} {done : List Octet} (h : s.Converting done) (bs : List Octet)
    (hfit : 8 * (done.length + bs.length) / 5 ≤ 64) :
    ∃ t, execAll (pushCommands bs) s = .next t ∧ t.Converting (done ++ bs) ∧ t.pad = s.pad := by
  induction bs generalizing s done with
  | nil => exact ⟨s, rfl, by simpa using h, rfl⟩
  | cons b bs ih =>
    rw [List.length_cons] at hfit
    obtain ⟨u, hu, hconv, hpad⟩ := exec_cvtPush_converting h b (by omega)
    obtain ⟨t, ht, hall, hpad'⟩ := ih hconv (by simp only [List.length_append, List.length_singleton]; omega)
    refine ⟨t, ?_, by simpa using hall, hpad'.trans hpad⟩
    rw [pushCommands, List.map_cons, execAll, hu]
    exact ht

/-- A padded flush with room for its tail word ends the conversion with the words of the whole stream in OUTQ. -/
theorem exec_cvtFlush_converting {s : State} {bs : List Octet} (h : s.Converting bs) (hpad : s.pad = true)
    (hfit : wordCount bs.length ≤ 64) :
    ∃ t, exec .cvtFlush s = .next t ∧ t.err = false ∧ t.cvtDone = true ∧ t.outq = dataWords bs := by
  obtain ⟨herr, hdone, h4, hholds⟩ := h
  have hcount := hholds.count
  rw [wordCount] at hfit
  have hexec : exec .cvtFlush s = .next (cvtFlushPad s) := by
    simp [exec, execCvtFlush, herr, cvtFlush, hpad]
  by_cases hn : 0 < s.nbits.toNat
  · have hwords : wordCount bs.length = s.outq.length + 1 := by rw [wordCount]; omega
    have hroom : 1 ≤ s.free := by rw [State.free_eq]; omega
    refine ⟨((s.emit (tailWord s.acc s.nbits)).setNbits 0#4).markFlushed, ?_, ?_, rfl, ?_⟩
    · rw [hexec]; simp [cvtFlushPad, tailWords, hdone, hn, Nat.not_lt.mpr hroom]
    · simpa [State.emit_eq] using herr
    · simpa [State.emit_eq, hholds.tailWord_eq_streamWord h4, dataWords, hwords] using concat_streamWord hholds.queued
  · have hwords : wordCount bs.length = s.outq.length := by rw [wordCount]; omega
    refine ⟨(s.setNbits 0#4).markFlushed, ?_, herr, rfl, ?_⟩
    · rw [hexec]; simp [cvtFlushPad, tailWords, hdone, hn]
    · rw [dataWords, hwords]; exact hholds.queued

/-- Settles O17: INIT, the pushes and the flush, one after another. -/
theorem paddedConversionIsTheBitStream : Obligations.PaddedConversionIsTheBitStream := by
  intro s bs hpad hfit
  have hpushes : 8 * (([] : List Octet).length + bs.length) / 5 ≤ 64 := by
    rw [wordCount] at hfit
    simp only [List.length_nil]
    omega
  obtain ⟨u, hu, hconv, hpadu⟩ := execAll_pushCommands_converting (startJob_converting s) bs hpushes
  obtain ⟨t, ht, herr, hdone, hwords⟩ := exec_cvtFlush_converting hconv (hpadu.trans hpad) hfit
  refine ⟨t, ?_, herr, hdone, hwords⟩
  have hinit : execAll ([Instr.init] ++ pushCommands bs) s = .next u := hu
  rw [execAll_append hinit, execAll, ht]
  rfl

end Sys2Proof.Machine

/-!
SUPPORT. The statements of spec/30_encoding.md about words: the two fields of a word and what a row of the opcode
table says of them, said once, then decoding as an equation on the fields and the theorems that settle the
obligations.
-/

namespace Sys2Proof

/-! ### A word and its fields (30_encoding.md R48 to R50) -/

/-- A word is its two fields, `OP` above `OPND` (R48). -/
theorem field_append_field (w : Word) : field w 24 8 ++ field w 0 24 = w :=
  (BitVec.extractLsb'_append_extractLsb'_eq_extractLsb' (by rfl)).trans BitVec.extractLsb'_eq_self

theorem eq_of_ofWord_eq {w u : Word} (h : Cmd32.ofWord w = Cmd32.ofWord u) : w = u := by
  obtain ⟨hop, hopnd⟩ := Cmd32.mk.inj h
  rw [← field_append_field w, hop, hopnd, field_append_field u]

/-- The encoder writes the fields of the command (R51, R57). -/
theorem ofWord_encode (i : Instr) : Cmd32.ofWord (encode i) = i.toCmd := by
  cases i with
  | nop => exact Laws.Fields.nop
  | init => exact Laws.Fields.init
  | cvtPush v => exact Laws.Fields.cvtPush v
  | cvtFlush => exact Laws.Fields.cvtFlush
  | chkStep v => exact Laws.Fields.chkStep v
  | chkHi c => exact Laws.Fields.chkHi c
  | chkLo c => exact Laws.Fields.chkLo c
  | chkCreate => exact Laws.Fields.chkCreate
  | chkVerify => exact Laws.Fields.chkVerify

/-- The word of a command as a number. -/
theorem encode_eq_ofNat (i : Instr) :
    encode i = BitVec.ofNat 32 (0x1000000 * i.opcode.toNat + i.operandField.toNat) := by
  obtain ⟨hop, hopnd⟩ := Cmd32.mk.inj (ofWord_encode i)
  rw [← field_append_field (encode i), hop, hopnd]
  apply BitVec.eq_of_toNat_eq
  have hopcode := i.opcode.isLt
  have hoperand := i.operandField.isLt
  rw [BitVec.toNat_append, ← Nat.shiftLeft_add_eq_or_of_lt hoperand, BitVec.toNat_ofNat]
  omega

/-- The bits of `OPND` above an operand of `n` bits are zero exactly when `OPND` is the operand zero-extended. -/
theorem field_high_eq_zero_iff {n : Nat} (hn : n ≤ 24) (w : Word) :
    field w n (24 - n) = 0#_ ↔ field w 0 24 = (field w 0 n).setWidth 24 := by
  constructor
  · intro hz
    ext i hi
    by_cases hni : i < n
    · simp [hni]
    · have hbit := congrArg (fun x => BitVec.getLsbD x (i - n)) hz
      simpa [hni, show n + (i - n) = i by omega, show i - n < 24 - n by omega] using hbit
  · intro h
    ext i hi
    have hbit := congrArg (fun x => BitVec.getLsbD x (n + i)) h
    simpa [show n + i < 24 by omega] using hbit

/-- The operand of `n` bits read from an `OPND` that holds it zero-extended. -/
theorem field_operand_of_opnd {n : Nat} (hn : n ≤ 24) {w : Word} {v : BitVec n}
    (h : field w 0 24 = v.setWidth 24) : field w 0 n = v := by
  ext i hi
  have hbit := congrArg (fun x => BitVec.getLsbD x i) h
  simpa [show i < 24 by omega, BitVec.getLsbD_eq_getElem hi] using hbit

/-! ### What a row of the table selects (30_encoding.md R49, R51, R52)

The mask of a row whose operand has `n` bits is 1 from bit `n` on, and its `match` is its OP above 24 zeros. -/

theorem getLsbD_mask (n : Nat) {i : Nat} (hi : i < 32) :
    (BitVec.allOnes 32 <<< n).getLsbD i = decide (n ≤ i) := by
  simp [-BitVec.reduceAllOnes, hi, ← decide_not]

/-- A row with an operand of `n` bits selects the words with its OP and zeros in `OPND` above the operand. -/
theorem and_mask_eq_iff {n : Nat} (hn : n ≤ 24) (op : BitVec 8) (w : Word) :
    w &&& BitVec.allOnes 32 <<< n = op.setWidth 32 <<< 24 ↔ field w 24 8 = op ∧ field w n (24 - n) = 0#_ := by
  have hbits : w &&& BitVec.allOnes 32 <<< n = op.setWidth 32 <<< 24 ↔
      ∀ i < 32, (w.getLsbD i && decide (n ≤ i)) = (decide (24 ≤ i) && op.getLsbD (i - 24)) := by
    rw [BitVec.eq_of_getLsbD_eq_iff]
    refine forall₂_congr fun i hi => ?_
    rw [BitVec.getLsbD_and, getLsbD_mask n hi]
    simp [hi, ← decide_not]
  rw [hbits]
  constructor
  · intro h
    constructor
    · ext i hi
      have hbit := h (24 + i) (by omega)
      simpa [show n ≤ 24 + i by omega, BitVec.getLsbD_eq_getElem hi] using hbit
    · ext i hi
      have hbit := h (n + i) (by omega)
      simpa [show ¬ 24 ≤ n + i by omega] using hbit
  · rintro ⟨hop, hz⟩ i hi
    obtain h24 | ⟨hni, h24⟩ | hni : 24 ≤ i ∨ (n ≤ i ∧ i < 24) ∨ i < n := by omega
    · simp [← hop, h24, show n ≤ i by omega, show i - 24 < 8 by omega]
    · have hbit := congrArg (fun x => BitVec.getLsbD x (i - n)) hz
      simpa [hni, show ¬ 24 ≤ i by omega, show i - n < 24 - n by omega] using hbit
    · simp [show ¬ n ≤ i by omega, show ¬ 24 ≤ i by omega]

/-- The same on the fields: `OPND` is the operand zero-extended. -/
theorem and_mask_eq_iff_ofWord {n : Nat} (hn : n ≤ 24) (op : BitVec 8) (w : Word) :
    w &&& BitVec.allOnes 32 <<< n = op.setWidth 32 <<< 24 ↔
      Cmd32.ofWord w = ⟨op, (field w 0 n).setWidth 24⟩ := by
  rw [and_mask_eq_iff hn, field_high_eq_zero_iff hn, Cmd32.ofWord, Cmd32.mk.injEq]

/-- A word with the OP of a row and an operand of `n` bits in `OPND` is selected, and the operand is read back. -/
theorem selected_of_ofWord {n : Nat} (op : BitVec 8) (v : BitVec n) {w : Word} (hn : n ≤ 24)
    (h : Cmd32.ofWord w = ⟨op, v.setWidth 24⟩) :
    w &&& BitVec.allOnes 32 <<< n = op.setWidth 32 <<< 24 ∧ field w 0 n = v := by
  have hv : field w 0 n = v := field_operand_of_opnd hn (congrArg Cmd32.opnd h)
  exact ⟨(and_mask_eq_iff_ofWord hn op w).mpr (by rw [h, hv]), hv⟩

/-- A word that a row selects has the fields of the command the row reads from it. -/
theorem ofWord_of_selects {r : OpcodeRow} (hr : r ∈ opcodeTable) {w : Word} (hs : w &&& r.mask = r.value) :
    Cmd32.ofWord w = (r.read w).toCmd := by
  have noOperand (op : BitVec 8) (h : w &&& BitVec.allOnes 32 <<< 0 = op.setWidth 32 <<< 24) :
      Cmd32.ofWord w = ⟨op, 0#24⟩ := by
    rw [(and_mask_eq_iff_ofWord (by omega) op w).mp h, Subsingleton.elim (field w 0 0) 0#0]
    rfl
  simp only [opcodeTable, List.mem_cons, List.not_mem_nil, or_false] at hr
  obtain rfl | rfl | rfl | rfl | rfl | rfl | rfl | rfl | rfl := hr
  · exact noOperand 0x00#8 hs
  · exact noOperand 0x01#8 hs
  · obtain ⟨hop, -⟩ := (and_mask_eq_iff (n := 24) (by omega) 0x10#8 w).mp hs
    exact congrArg (Cmd32.mk · (field w 0 24)) hop
  · exact noOperand 0x11#8 hs
  · exact (and_mask_eq_iff_ofWord (n := 5) (by omega) 0x20#8 w).mp hs
  · exact (and_mask_eq_iff_ofWord (n := 8) (by omega) 0x21#8 w).mp hs
  · exact (and_mask_eq_iff_ofWord (n := 8) (by omega) 0x22#8 w).mp hs
  · exact noOperand 0x23#8 hs
  · exact noOperand 0x24#8 hs

/-- A word with the fields of a command is selected by a row that reads the command from it. -/
theorem exists_row_of_ofWord {w : Word} {i : Instr} (h : Cmd32.ofWord w = i.toCmd) :
    ∃ r ∈ opcodeTable, w &&& r.mask = r.value ∧ r.read w = i := by
  have noOperand (op : BitVec 8) (h : Cmd32.ofWord w = ⟨op, 0#24⟩) :
      w &&& BitVec.allOnes 32 <<< 0 = op.setWidth 32 <<< 24 :=
    (selected_of_ofWord op 0#0 (by omega) h).1
  cases i with
  | nop => exact ⟨opcodeTable[0], List.getElem_mem _, noOperand 0x00#8 h, rfl⟩
  | init => exact ⟨opcodeTable[1], List.getElem_mem _, noOperand 0x01#8 h, rfl⟩
  | cvtPush v =>
    obtain ⟨hs, hv⟩ := selected_of_ofWord 0x10#8 v (by omega) (h.trans (by rw [BitVec.setWidth_eq]; rfl))
    exact ⟨opcodeTable[2], List.getElem_mem _, hs, congrArg Instr.cvtPush hv⟩
  | cvtFlush => exact ⟨opcodeTable[3], List.getElem_mem _, noOperand 0x11#8 h, rfl⟩
  | chkStep v =>
    obtain ⟨hs, hv⟩ := selected_of_ofWord 0x20#8 v (by omega) h
    exact ⟨opcodeTable[4], List.getElem_mem _, hs, congrArg Instr.chkStep hv⟩
  | chkHi c =>
    obtain ⟨hs, hv⟩ := selected_of_ofWord 0x21#8 c (by omega) h
    exact ⟨opcodeTable[5], List.getElem_mem _, hs, congrArg Instr.chkHi hv⟩
  | chkLo c =>
    obtain ⟨hs, hv⟩ := selected_of_ofWord 0x22#8 c (by omega) h
    exact ⟨opcodeTable[6], List.getElem_mem _, hs, congrArg Instr.chkLo hv⟩
  | chkCreate => exact ⟨opcodeTable[7], List.getElem_mem _, noOperand 0x23#8 h, rfl⟩
  | chkVerify => exact ⟨opcodeTable[8], List.getElem_mem _, noOperand 0x24#8 h, rfl⟩

/-! ### No two rows select one word (30_encoding.md R52) -/

theorem field_mask_of_mem : ∀ r ∈ opcodeTable, field r.mask 24 8 = 0xFF#8 := by decide

theorem opcodeTable_pairwise_op : opcodeTable.Pairwise fun r q => field r.value 24 8 ≠ field q.value 24 8 := by
  decide

/-- A row selects only words with its own OP: its mask keeps all of bits [31:24]. -/
theorem field_op_of_selects {r : OpcodeRow} (hr : r ∈ opcodeTable) {w : Word} (hs : w &&& r.mask = r.value) :
    field w 24 8 = field r.value 24 8 := by
  calc
    field w 24 8 = field w 24 8 &&& 0xFF#8 := BitVec.and_allOnes.symm
    _ = field w 24 8 &&& field r.mask 24 8 := by rw [field_mask_of_mem r hr]
    _ = field r.value 24 8 := by rw [← hs, field, field, field, BitVec.extractLsb'_and]

theorem opcodeTable_pairwise_disjoint :
    opcodeTable.Pairwise fun r q => ∀ w : Word, ¬ (w &&& r.mask = r.value ∧ w &&& q.mask = q.value) :=
  opcodeTable_pairwise_op.imp_of_mem fun hr hq hne _ ⟨hsr, hsq⟩ =>
    hne ((field_op_of_selects hr hsr).symm.trans (field_op_of_selects hq hsq))

theorem row_unique {r q : OpcodeRow} (hr : r ∈ opcodeTable) (hq : q ∈ opcodeTable) {w : Word}
    (hsr : w &&& r.mask = r.value) (hsq : w &&& q.mask = q.value) : r = q := by
  have hsymm : Std.Symm fun r q : OpcodeRow => field r.value 24 8 ≠ field q.value 24 8 := ⟨fun _ _ h => h.symm⟩
  by_contra hne
  exact opcodeTable_pairwise_op.forall hr hq hne
    ((field_op_of_selects hr hsr).symm.trans (field_op_of_selects hq hsq))

/-! ### Decoding (30_encoding.md R52, R53) -/

/-- The decoder's first row is the only one: a word decodes to what any row that selects it reads. -/
theorem decode_eq_ok_iff {w : Word} {i : Instr} :
    decode w = .ok i ↔ ∃ r ∈ opcodeTable, w &&& r.mask = r.value ∧ r.read w = i := by
  constructor
  · intro h
    obtain ⟨r, hr, hs, hi⟩ := decode_ok_cases h
    exact ⟨r, hr, (r.selects_iff w).mp hs, hi⟩
  · rintro ⟨r, hr, hs, rfl⟩
    cases h : decode w with
    | ok i =>
      obtain ⟨q, hq, hsq, rfl⟩ := decode_ok_cases h
      rw [row_unique hr hq hs ((q.selects_iff w).mp hsq)]
    | error e =>
      have hnone := decode_error_iff.mp ⟨e, h⟩ r hr
      exact absurd ((r.selects_iff w).mpr hs) (by simp [hnone])

theorem decode_eq_error_iff {w : Word} :
    (∃ e, decode w = .error e) ↔ ∀ r ∈ opcodeTable, w &&& r.mask ≠ r.value := by
  simp only [decode_error_iff, Bool.eq_false_iff, ne_eq, OpcodeRow.selects_iff]

/-- A word decodes to the command that has its fields. -/
theorem decode_eq_ok_iff_ofWord {w : Word} {i : Instr} : decode w = .ok i ↔ Cmd32.ofWord w = i.toCmd := by
  rw [decode_eq_ok_iff]
  constructor
  · rintro ⟨r, hr, hs, rfl⟩
    exact ofWord_of_selects hr hs
  · exact exists_row_of_ofWord

/-- A word is ILLEGAL exactly when each row finds another OP or a must-be-zero bit set (R53). CVT_PUSH has no
must-be-zero bits, so its row finds only another OP. -/
theorem decode_eq_error_iff_fields {w : Word} : (∃ e, decode w = .error e) ↔
    ¬ (field w 24 8 = 0x00#8 ∧ field w 0 24 = 0#24) ∧
    ¬ (field w 24 8 = 0x01#8 ∧ field w 0 24 = 0#24) ∧
    ¬ field w 24 8 = 0x10#8 ∧
    ¬ (field w 24 8 = 0x11#8 ∧ field w 0 24 = 0#24) ∧
    ¬ (field w 24 8 = 0x20#8 ∧ field w 5 19 = 0#19) ∧
    ¬ (field w 24 8 = 0x21#8 ∧ field w 8 16 = 0#16) ∧
    ¬ (field w 24 8 = 0x22#8 ∧ field w 8 16 = 0#16) ∧
    ¬ (field w 24 8 = 0x23#8 ∧ field w 0 24 = 0#24) ∧
    ¬ (field w 24 8 = 0x24#8 ∧ field w 0 24 = 0#24) := by
  have miss {n : Nat} (hn : n ≤ 24) (op : BitVec 8) := not_congr (and_mask_eq_iff hn op w)
  have missPush := (miss (n := 24) (by omega) 0x10#8).trans
    (not_congr (and_iff_left (Subsingleton.elim (field w 24 0) 0#0)))
  simp only [decode_eq_error_iff, opcodeTable, List.forall_mem_cons, List.not_mem_nil, false_imp_iff, implies_true,
    and_true]
  exact and_congr (miss (n := 0) (by omega) 0x00#8) <| and_congr (miss (n := 0) (by omega) 0x01#8) <|
    and_congr missPush <| and_congr (miss (n := 0) (by omega) 0x11#8) <|
    and_congr (miss (n := 5) (by omega) 0x20#8) <| and_congr (miss (n := 8) (by omega) 0x21#8) <|
    and_congr (miss (n := 8) (by omega) 0x22#8) <| and_congr (miss (n := 0) (by omega) 0x23#8) <|
    miss (n := 0) (by omega) 0x24#8

/-! ### The obligations about words -/

/-- Settles O1: the encoder writes the command's fields, and decoding goes by the fields. -/
theorem decodeEncode : Obligations.DecodeEncode := fun i => decode_eq_ok_iff_ofWord.mpr (ofWord_encode i)

/-- Settles O2: the word and the word of its command have the same fields. -/
theorem encodeDecode : Obligations.EncodeDecode := fun _ i h =>
  eq_of_ofWord_eq ((ofWord_encode i).trans (decode_eq_ok_iff_ofWord.mp h).symm)

/-- Settles O3: the masks keep OP, and the rows' OP values differ. -/
theorem decodeSelectsTheOneRow : Obligations.DecodeSelectsTheOneRow :=
  ⟨fun _ _ => decode_eq_ok_iff, fun _ => decode_eq_error_iff, field_mask_of_mem, opcodeTable_pairwise_op,
    opcodeTable_pairwise_disjoint⟩

namespace Machine

/-- With ERR = 0 an ILLEGAL word raises ILLEGAL_COMMAND (R53, R61). -/
theorem execute_of_illegal {w : Word} {e : Illegal} {s : State} (h : decode w = .error e) (herr : s.err = false) :
    execute w s = .next (s.failed .illegalCommand) := by
  simp [execute, h, herr, State.raise]

/-- Settles O4: the rows' conditions leave exactly the words of R53, as arithmetic on the fields. -/
theorem reservedWordsAreIllegal : Obligations.ReservedWordsAreIllegal := by
  refine ⟨fun w => ?_, fun _ _ _ => execute_of_illegal⟩
  rw [decode_eq_error_iff_fields]
  simp only [List.mem_cons, List.not_mem_nil, or_false, ne_eq, ← BitVec.toNat_inj, BitVec.toNat_ofNat,
    Nat.reducePow, Nat.reduceMod, Nat.zero_mod]
  generalize (field w 24 8).toNat = op, (field w 0 24).toNat = opnd, (field w 5 19).toNat = above5,
    (field w 8 16).toNat = above8
  omega

/-- Settles O5: the word is that of CVT_PUSH, whose range check then fails. -/
theorem pushOperandHasNoReservedBits : Obligations.PushOperandHasNoReservedBits := by
  refine ⟨fun v => decodeEncode (.cvtPush v), fun v s herr hdone hhigh => ?_⟩
  have hrun : execute (0x10000000#32 ||| v.setWidth 32) s = exec (.cvtPush v) s :=
    execute_of_decode (decodeEncode (.cvtPush v)) s
  have hrange : exceedsByte v = true := bne_iff_ne.mpr hhigh
  rw [hrun, exec, execCvtPush, State.obey_of_not_err s _ herr, cvtPush]
  simp [hdone, hrange, State.raise]

/-- Settles O6, by evaluating the decoder at the six words. -/
theorem writtenOutWordsDecode : Obligations.WrittenOutWordsDecode := by
  unfold Obligations.WrittenOutWordsDecode
  decide

/-! ### Runs (30_encoding.md R53, 43_host_access.md R87) -/

/-- Every step goes on. -/
theorem step_total (s : State) : ∃ t, step s = .next t := by
  obtain ⟨-, h⟩ | ⟨e, es, hp, -⟩ := step_cases s
  · exact ⟨s, h⟩
  · obtain ⟨t, -, h, -⟩ := step_handles hp
    exact ⟨t, h⟩

/-- Settles O52, by induction on the number of steps. -/
theorem runsNeverStop : Obligations.RunsNeverStop := by
  intro s k
  induction k generalizing s with
  | zero => exact ⟨s, rfl⟩
  | succ k ih =>
    obtain ⟨u, hu⟩ := step_total s
    obtain ⟨t, ht⟩ := ih u
    exact ⟨t, (run_succ_of_step hu k).trans ht⟩

end Machine

end Sys2Proof

/-!
SUPPORT. The statement of spec/30_encoding.md about the assembler's text (R59, R60): the words of the commands as
numbers, what each reader of operands answers, then the theorem that settles the obligation.
-/

namespace Sys2Proof.Machine.Assembler

/-! ### The writes of a command with an operand (30_encoding.md R57, R58) -/

theorem commandEvent_cvtPush (v : BitVec 24) :
    commandEvent (.cvtPush v) = wrCmd (BitVec.ofNat 32 (0x10000000 + v.toNat)) :=
  congrArg wrCmd (encode_eq_ofNat (.cvtPush v))

theorem commandEvent_chkHi (c : Octet) :
    commandEvent (.chkHi c) = wrCmd (BitVec.ofNat 32 (0x21000000 + c.toNat)) := by
  rw [commandEvent, encode_eq_ofNat, Instr.operandField, BitVec.toNat_setWidth_of_le (by omega), Instr.opcode]
  rfl

theorem commandEvent_chkLo (c : Octet) :
    commandEvent (.chkLo c) = wrCmd (BitVec.ofNat 32 (0x22000000 + c.toNat)) := by
  rw [commandEvent, encode_eq_ofNat, Instr.operandField, BitVec.toNat_setWidth_of_le (by omega), Instr.opcode]
  rfl

/-! ### `chk.hrp` (30_encoding.md R59) -/

theorem statement_hrp (cs : List Char) : statement "chk.hrp".toList [.str cs] =
    (asciiCodes cs).map fun hrp => (hrpCommands hrp).map commandEvent := rfl

theorem asciiCodes_of_ascii {cs : List Char} (h : ∀ c ∈ cs, c.toNat ≤ 127) :
    asciiCodes cs = .ok (cs.map fun c => BitVec.ofNat 8 c.toNat) := by
  induction cs with
  | nil => rfl
  | cons c cs ih =>
    obtain ⟨hc, hcs⟩ := List.forall_mem_cons.mp h
    rw [asciiCodes, asciiCode, if_pos hc, ih hcs]
    rfl

theorem statement_hrp_of_ascii {cs : List Char} (h : ∀ c ∈ cs, c.toNat ≤ 127) :
    statement "chk.hrp".toList [.str cs] =
      .ok (cs.map (fun c => wrCmd (BitVec.ofNat 32 (0x21000000 + c.toNat))) ++ [wrCmd 0x20000000#32]
        ++ cs.map (fun c => wrCmd (BitVec.ofNat 32 (0x22000000 + c.toNat)))) := by
  have hcode {c : Char} (hc : c ∈ cs) : (BitVec.ofNat 8 c.toNat).toNat = c.toNat :=
    Nat.mod_eq_of_lt (Nat.lt_of_le_of_lt (h c hc) (by omega))
  have hhi : (cs.map fun c => commandEvent (.chkHi (BitVec.ofNat 8 c.toNat))) =
      cs.map fun c => wrCmd (BitVec.ofNat 32 (0x21000000 + c.toNat)) :=
    List.map_congr_left fun c hc => by rw [commandEvent_chkHi, hcode hc]
  have hlo : (cs.map fun c => commandEvent (.chkLo (BitVec.ofNat 8 c.toNat))) =
      cs.map fun c => wrCmd (BitVec.ofNat 32 (0x22000000 + c.toNat)) :=
    List.map_congr_left fun c hc => by rw [commandEvent_chkLo, hcode hc]
  rw [statement_hrp, asciiCodes_of_ascii h, Except.map, ← hhi, ← hlo]
  simp only [hrpCommands, List.map_append, List.map_map]
  rfl

/-! ### `cvt.bytes` (30_encoding.md R60) -/

theorem statement_bytes (ts : List Token) : statement "cvt.bytes".toList ts =
    (valueList ts).map fun vs => vs.map fun v => commandEvent (.cvtPush (BitVec.ofNat 24 v)) := rfl

theorem numberUpTo_text {cs : List Char} {n max : Nat} (hn : number cs = some n) (hmax : n ≤ max) :
    numberUpTo max [.text cs] = .ok n := by
  simp [numberUpTo, hn, hmax]

theorem valueList_text_comma {cs : List Char} {n : Nat} {ts : List Token} {ns : List Nat}
    (hn : number cs = some n) (hmax : n ≤ 0xFFFFFF) (hts : ts ≠ []) (hns : valueList ts = .ok ns) :
    valueList (.text cs :: .comma :: ts) = .ok (n :: ns) := by
  obtain ⟨u, us, rfl⟩ := List.exists_cons_of_ne_nil hts
  rw [valueList, numberUpTo_text hn hmax, hns]
  rfl

theorem valueList_intersperse {vs : List (List Char × Nat)}
    (h : ∀ x ∈ vs, number x.1 = some x.2 ∧ x.2 ≤ 0xFFFFFF) :
    valueList ((vs.map fun x => Token.text x.1).intersperse .comma) = .ok (vs.map Prod.snd) := by
  induction vs with
  | nil => rfl
  | cons x vs ih =>
    obtain ⟨⟨hx, hmax⟩, hvs⟩ := List.forall_mem_cons.mp h
    cases vs with
    | nil =>
      change valueList [.text x.1] = .ok [x.2]
      rw [valueList, numberUpTo_text hx hmax]
      rfl
    | cons y ys => exact valueList_text_comma hx hmax (by cases ys <;> simp) (ih hvs)

theorem statement_bytes_of_numbers {vs : List (List Char × Nat)}
    (h : ∀ x ∈ vs, number x.1 = some x.2 ∧ x.2 ≤ 0xFFFFFF) :
    statement "cvt.bytes".toList ((vs.map fun x => Token.text x.1).intersperse .comma) =
      .ok (vs.map fun x => wrCmd (BitVec.ofNat 32 (0x10000000 + x.2))) := by
  rw [statement_bytes, valueList_intersperse h, Except.map, List.map_map]
  refine congrArg Except.ok (List.map_congr_left fun x hx => ?_)
  obtain ⟨-, hmax⟩ := h x hx
  have hvalue : (BitVec.ofNat 24 x.2).toNat = x.2 := Nat.mod_eq_of_lt (Nat.lt_of_le_of_lt hmax (by omega))
  rw [Function.comp_apply, commandEvent_cvtPush, hvalue]

/-! ### `cvt.hex` (30_encoding.md R60) -/

theorem statement_hex (cs : List Char) : statement "cvt.hex".toList [.str cs] =
    (hexBytes cs).map fun bs => (pushCommands bs).map commandEvent := rfl

theorem hexBytes_cons_cons {a b : Char} {x y : Nat} (ha : hexDigit a = some x) (hb : hexDigit b = some y)
    (cs : List Char) : hexBytes (a :: b :: cs) = (hexBytes cs).map (BitVec.ofNat 8 (x * 16 + y) :: ·) := by
  rw [hexBytes, ha, hb]
  rfl

/-- What the reader of `cvt.hex` can answer: bytes for an even number of hexadecimal digits, or the refusal. -/
theorem hexBytes_cases (cs : List Char) :
    (cs.length % 2 = 0 ∧ (∀ c ∈ cs, (hexDigit c).isSome) ∧ ∃ bs, hexBytes cs = .ok bs) ∨
      hexBytes cs = .error .invalidHex := by
  induction cs using hexBytes.induct with
  | case1 => exact .inl ⟨rfl, nofun, [], rfl⟩
  | case2 a b cs x y hb ha ih =>
    rw [hexBytes_cons_cons ha hb]
    obtain ⟨heven, hdigits, bs, hbs⟩ | herr := ih
    · refine .inl ⟨?_, by simpa [ha, hb] using hdigits, _, by rw [hbs]; rfl⟩
      rw [List.length_cons, List.length_cons]
      omega
    · exact .inr (by rw [herr]; rfl)
  | case3 a b cs hnone =>
    refine .inr ?_
    rw [hexBytes]
    split
    · next x y ha hb => exact (hnone x y ha hb).elim
    · rfl
  | case4 => exact .inr rfl

theorem mem_of_hexDigit_isSome {c : Char} (h : (hexDigit c).isSome) :
    c ∈ ['0', '1', '2', '3', '4', '5', '6', '7', '8', '9', 'a', 'b', 'c', 'd', 'e', 'f',
      'A', 'B', 'C', 'D', 'E', 'F'] := by
  have hrange : (48 ≤ c.toNat ∧ c.toNat ≤ 57) ∨ (97 ≤ c.toNat ∧ c.toNat ≤ 102) ∨
      (65 ≤ c.toNat ∧ c.toNat ≤ 70) := by
    unfold hexDigit at h
    split at h
    · next hdecimal => exact .inl hdecimal
    · split at h
      · next hlower => exact .inr (.inl hlower)
      · split at h
        · next hupper => exact .inr (.inr hupper)
        · cases h
  have hcode : c.toNat ∈ ['0', '1', '2', '3', '4', '5', '6', '7', '8', '9', 'a', 'b', 'c', 'd', 'e', 'f',
      'A', 'B', 'C', 'D', 'E', 'F'].map Char.toNat := by
    simp only [List.map, Char.reduceToNat, List.mem_cons, List.not_mem_nil, or_false]
    omega
  obtain ⟨d, hd, hdc⟩ := List.mem_map.mp hcode
  exact Char.toNat_inj.mp hdc ▸ hd

/-- The digit of a nibble, in lower case. -/
def hexChar (n : Fin 16) : Char :=
  ['0', '1', '2', '3', '4', '5', '6', '7', '8', '9', 'a', 'b', 'c', 'd', 'e', 'f'].getD n.val '0'

theorem hexDigit_hexChar (n : Fin 16) : hexDigit (hexChar n) = some n.val := by
  revert n
  decide

theorem hexBytes_hexChar (bytes : List (Fin 16 × Fin 16)) :
    hexBytes (bytes.flatMap fun b => [hexChar b.1, hexChar b.2]) =
      .ok (bytes.map fun b => BitVec.ofNat 8 (b.1.val * 16 + b.2.val)) := by
  induction bytes with
  | nil => rfl
  | cons b bytes ih =>
    rw [List.flatMap_cons, List.cons_append, List.cons_append, List.nil_append,
      hexBytes_cons_cons (hexDigit_hexChar b.1) (hexDigit_hexChar b.2), ih]
    rfl

theorem statement_hex_of_hexChar (bytes : List (Fin 16 × Fin 16)) :
    statement "cvt.hex".toList [.str (bytes.flatMap fun b => [hexChar b.1, hexChar b.2])] =
      .ok (bytes.map fun b => wrCmd (BitVec.ofNat 32 (0x10000000 + 16 * b.1.val + b.2.val))) := by
  rw [statement_hex, hexBytes_hexChar, Except.map, pushCommands, List.map_map, List.map_map]
  refine congrArg Except.ok (List.map_congr_left fun b _ => ?_)
  have hvalue : 0x10000000 + ((BitVec.ofNat 8 (b.1.val * 16 + b.2.val)).setWidth 24).toNat =
      0x10000000 + 16 * b.1.val + b.2.val := by
    rw [BitVec.toNat_setWidth, BitVec.toNat_ofNat]
    omega
  rw [Function.comp_apply, Function.comp_apply, commandEvent_cvtPush, hvalue]

theorem statement_hex_of_error {cs : List Char} (h : hexBytes cs = .error .invalidHex) :
    statement "cvt.hex".toList [.str cs] = .error .invalidHex := by
  rw [statement_hex, h]
  rfl

/-! ### The obligation about the assembler -/

/-- Settles O55: each pseudo-instruction by the lemma about it; the two refusals because the reader of `cvt.hex`
accepts only an even number of hexadecimal digits. -/
theorem assemblerExpandsPseudoInstructions : Obligations.AssemblerExpandsPseudoInstructions := by
  refine ⟨fun _ => statement_hrp_of_ascii, rfl, fun _ => statement_bytes_of_numbers, statement_hex_of_hexChar,
    fun cs hodd => statement_hex_of_error ?_, fun cs c hc hno => statement_hex_of_error ?_⟩
  · obtain ⟨heven, -⟩ | herr := hexBytes_cases cs
    · omega
    · exact herr
  · obtain ⟨-, hdigits, -⟩ | herr := hexBytes_cases cs
    · exact absurd (mem_of_hexDigit_isSome (hdigits c hc)) hno
    · exact herr

end Sys2Proof.Machine.Assembler

/-!
SUPPORT. The statements of spec/40_control.md: which command a word is and what it does with ERR = 1 (R61, R63,
R64), then that no command looks at the events to come or at the record, which makes two runs of one job agree.
-/

namespace Sys2Proof.Machine

/-! ### Command words and the test of ERR (40_control.md R61, R63, R64) -/

/-- Each command has exactly one word. -/
theorem decode_eq_ok_iff_eq_encode {w : Word} {i : Instr} : decode w = .ok i ↔ w = encode i :=
  ⟨fun h => (encodeDecode w i h).symm, fun h => h ▸ decodeEncode i⟩

/-- A word with the OP of a command without operand is ILLEGAL when an operand bit is set (R53). -/
theorem exists_decode_error_of_opnd {w : Word} (hop : field w 24 8 ∈ [0x00#8, 0x01#8, 0x11#8, 0x23#8, 0x24#8])
    (hopnd : field w 0 24 ≠ 0#24) : ∃ e, decode w = .error e := by
  obtain ⟨hreserved, -⟩ := reservedWordsAreIllegal
  exact (hreserved w).mpr (.inr (.inr (.inr (.inl ⟨hop, hopnd⟩))))

/-- With ERR = 1 an ILLEGAL word is ignored like any other (R61, R98). -/
theorem execute_of_illegal_of_err {w : Word} {e : Illegal} {s : State} (h : decode w = .error e)
    (herr : s.err = true) : execute w s = .next s := by
  simp [execute, h, herr]

/-- With ERR = 1 every command but INIT has no effect (R61, R98). -/
theorem exec_of_err {i : Instr} {s : State} (herr : s.err = true) (hi : i ≠ .init) : exec i s = .next s := by
  obtain ⟨-, he⟩ | ⟨rfl, -⟩ | ⟨v, -, he⟩ | ⟨-, he⟩ | ⟨v, -, he⟩ | ⟨-, he⟩ | ⟨-, he⟩ := exec_cases i s
  · exact he
  · exact absurd rfl hi
  all_goals rw [he, State.obey_of_err s _ herr]

/-- Settles O9: with ERR = 1 by what the word decodes to, with ERR = 0 by the two lemmas about a command word. -/
theorem executeTestsErrFirst : Obligations.ExecuteTestsErrFirst := by
  refine fun w s => ⟨fun _ hw => execute_of_decode (decode_eq_ok_iff_eq_encode.mpr hw) s, fun herr hw => ?_,
    fun herr _ h => execute_of_illegal h herr, fun _ _ h => execute_of_decode h s⟩
  cases hd : decode w with
  | error e => exact execute_of_illegal_of_err hd herr
  | ok i =>
    have hi : i ≠ .init := fun hinit => hw (eq_of_decode_init (hinit ▸ hd))
    rw [execute_of_decode hd, exec_of_err herr hi]

/-- Settles O7: the step's answered outcome at a command that goes on. -/
theorem stepRunsDecodedCommand : Obligations.StepRunsDecodedCommand := by
  intro s t es w i hp hd he
  have hexec : exec i (s.setPending es) = .next t := he
  rw [step_wrCmd_of_decode hp hd, hexec]
  rfl

/-- Settles O10: NOP's meaning, its one word, and R53 for the other words of its OP. -/
theorem nopHasNoEffect : Obligations.NopHasNoEffect := by
  refine ⟨fun _ => rfl, fun _ => decode_eq_ok_iff_eq_encode, fun w s hop hopnd herr => ?_⟩
  obtain ⟨e, he⟩ := exists_decode_error_of_opnd (by simp [hop]) hopnd
  exact execute_of_illegal he herr

/-- Settles O11: INIT's meaning, the ignored commands, INIT's one word, and R53 for the other words of its OP. -/
theorem initStartsJob : Obligations.InitStartsJob := by
  refine ⟨fun _ => rfl, fun _ _ => exec_of_err, fun _ => decode_eq_ok_iff_eq_encode, fun w s hop hopnd => ?_⟩
  obtain ⟨e, he⟩ := exists_decode_error_of_opnd (by simp [hop]) hopnd
  cases herr : s.err with
  | true => exact execute_of_illegal_of_err he herr
  | false => exact execute_of_illegal he herr

/-! ### No command looks at the events to come or at the record (40_control.md R64)

The block's elements of one state beside the two host fields of another; every command commutes with the exchange. -/

/-- The elements of the block as in `s`, the events to come and the record as in `u`. -/
def State.withHostOf (s u : State) : State := { s with pending := u.pending, history := u.history }

namespace State

/-- INIT leaves nothing of the block but PAD and CHAIN (R64). -/
theorem startJob_eq_withHostOf {s u : State} (hpad : s.pad = u.pad) (hchain : s.chain = u.chain) :
    u.startJob = s.startJob.withHostOf u := by
  simp [startJob, withHostOf, hpad, hchain]

variable (s u : State)

@[simp] theorem withHostOf_acc : (s.withHostOf u).acc = s.acc := rfl
@[simp] theorem withHostOf_nbits : (s.withHostOf u).nbits = s.nbits := rfl
@[simp] theorem withHostOf_err : (s.withHostOf u).err = s.err := rfl
@[simp] theorem withHostOf_pad : (s.withHostOf u).pad = s.pad := rfl

theorem emit_withHostOf (w : Sym) : (s.withHostOf u).emit w = (s.emit w).withHostOf u := by
  simp [emit_eq, withHostOf]

theorem obey_withHostOf {f : State → State} (hf : f (s.withHostOf u) = (f s).withHostOf u) :
    (s.withHostOf u).obey f = (s.obey f).withHostOf u := by
  simp [obey, hf, apply_ite (withHostOf · u)]

end State

theorem emitWhole_withHostOf (rounds : Nat) (s u : State) :
    emitWhole rounds (s.withHostOf u) = (emitWhole rounds s).withHostOf u := by
  induction rounds generalizing s with
  | zero => rfl
  | succ rounds ih =>
    by_cases h : 5 ≤ s.nbits.toNat
    · rw [emitWhole_round s rounds h, ← ih, ← State.emit_withHostOf]
      exact emitWhole_round (s.withHostOf u) rounds h
    · rw [emitWhole_done s _ (by omega), emitWhole_done (s.withHostOf u) _ (by simpa using h)]

theorem cvtPush_withHostOf (v : BitVec 24) (s u : State) :
    cvtPush v (s.withHostOf u) = (cvtPush v s).withHostOf u := by
  simp only [cvtPush, apply_ite (State.withHostOf · u), ← emitWhole_withHostOf]
  rfl

theorem cvtFlushPad_withHostOf (s u : State) : cvtFlushPad (s.withHostOf u) = (cvtFlushPad s).withHostOf u := by
  by_cases hn : 0 < s.nbits.toNat <;>
    simp only [cvtFlushPad, State.withHostOf_nbits, hn, if_true, if_false, State.withHostOf_acc,
      State.emit_withHostOf, apply_ite (State.withHostOf · u)] <;> rfl

theorem cvtFlushStrict_withHostOf (s u : State) :
    cvtFlushStrict (s.withHostOf u) = (cvtFlushStrict s).withHostOf u := by
  simp only [cvtFlushStrict, apply_ite (State.withHostOf · u)]
  rfl

theorem cvtFlush_withHostOf (s u : State) : cvtFlush (s.withHostOf u) = (cvtFlush s).withHostOf u := by
  cases hp : s.pad <;> simp [cvtFlush, hp, cvtFlushPad_withHostOf, cvtFlushStrict_withHostOf]

theorem chkCreate_withHostOf (s u : State) : chkCreate (s.withHostOf u) = (chkCreate s).withHostOf u := by
  simp only [chkCreate, apply_ite (State.withHostOf · u), State.enqueueAll_eq]
  rfl

/-- A command does to the block the same whatever is to come and whatever is recorded, and changes neither. -/
theorem exec_withHostOf {i : Instr} {s t : State} (u : State) (h : exec i s = .next t) :
    exec i (s.withHostOf u) = .next (t.withHostOf u) := by
  cases i <;> obtain rfl := Host.Outcome.next.inj h <;> refine congrArg Host.Outcome.next ?_
  case nop => rfl
  case init => rfl
  case cvtPush v => exact s.obey_withHostOf u (cvtPush_withHostOf v s u)
  case cvtFlush => exact s.obey_withHostOf u (cvtFlush_withHostOf s u)
  case chkStep v => exact s.obey_withHostOf u rfl
  case chkHi c => exact s.obey_withHostOf u rfl
  case chkLo c => exact s.obey_withHostOf u rfl
  case chkCreate => exact s.obey_withHostOf u (chkCreate_withHostOf s u)
  case chkVerify => exact s.obey_withHostOf u rfl

theorem execAll_withHostOf {is : List Instr} {s t : State} (u : State) (h : execAll is s = .next t) :
    execAll is (s.withHostOf u) = .next (t.withHostOf u) := by
  induction is generalizing s with
  | nil => exact congrArg (fun x => Host.Outcome.next (x.withHostOf u)) (Host.Outcome.next.inj h)
  | cons i is ih =>
    obtain ⟨m, hm⟩ := exec_total i s
    simp only [execAll, hm] at h
    simp only [execAll, exec_withHostOf u hm]
    exact ih h

/-- Settles O37: after INIT the two states differ in the host fields only, and the commands commute with those. -/
theorem jobsDependOnlyOnTheirCommands : Obligations.JobsDependOnlyOnTheirCommands := by
  intro is s u t r hpad hchain hs hu
  have hrun : execAll is (s.startJob.withHostOf u) = .next r := State.startJob_eq_withHostOf hpad hchain ▸ hu
  exact Host.Outcome.next.inj (hrun.symm.trans (execAll_withHostOf u hs))

end Sys2Proof.Machine

/-!
SUPPORT. The statements of spec/41_converter.md: an equation per case of CVT_PUSH and CVT_FLUSH, said once, then the
theorems that settle the obligations, and the invariant the converter's counts are part of.
-/

namespace Sys2Proof.Machine

/-! ### CVT_PUSH case by case (41_converter.md R67 to R69) -/

theorem exec_cvtPush_of_not_err (v : BitVec 24) {s : State} (h : s.err = false) :
    exec (.cvtPush v) s = .next (cvtPush v s) :=
  congrArg Host.Outcome.next (s.obey_of_not_err _ h)

section
variable {s : State} {v : BitVec 24}

theorem cvtPush_of_done (hd : s.cvtDone = true) : cvtPush v s = s.raise .sequence := by
  simp [cvtPush, hd]

theorem cvtPush_of_out_of_range (hd : s.cvtDone = false) (hv : 256 ≤ v.toNat) :
    cvtPush v s = s.raise .valueOutOfRange := by
  simp [cvtPush, hd, (exceedsByte_iff v).mpr hv]

/-- The range check passes exactly on bytes (R100). -/
theorem exceedsByte_eq_false_iff : exceedsByte v = false ↔ v.toNat < 256 := by
  rw [← Bool.not_eq_true, exceedsByte_iff, Nat.not_le]

theorem cvtPush_of_full (hd : s.cvtDone = false) (hv : v.toNat < 256) (hfull : s.free < pushWords s.nbits) :
    cvtPush v s = s.raise .outqOverflow := by
  simp [cvtPush, hd, exceedsByte_eq_false_iff.mpr hv, hfull]

theorem cvtPush_of_accepted (hd : s.cvtDone = false) (hv : v.toNat < 256) (hroom : pushWords s.nbits ≤ s.free) :
    cvtPush v s = emitWhole 3 ((s.setAcc (shiftIn s.acc v)).setNbits (s.nbits + 8#4)) := by
  simp [cvtPush, hd, exceedsByte_eq_false_iff.mpr hv, Nat.not_lt.mpr hroom]

/-- One round on numbers: NBITS five less, and ACC without the bits that stay buffered as the next word (R67). -/
theorem emitWhole_round_eq (rounds : Nat) (h5 : 5 ≤ s.nbits.toNat) :
    emitWhole (rounds + 1) s = emitWhole rounds
      { s with
        nbits := BitVec.ofNat 4 (s.nbits.toNat - 5)
        outq := s.outq ++ [BitVec.ofNat 5 (s.acc.toNat / 2 ^ (s.nbits.toNat - 5))]
        chkAcc :=
          if s.chain then polyStep s.chkAcc (BitVec.ofNat 5 (s.acc.toNat / 2 ^ (s.nbits.toNat - 5)))
          else s.chkAcc } := by
  have hn : s.nbits - 5#4 = BitVec.ofNat 4 (s.nbits.toNat - 5) := by bv_omega
  have hlt : (s.nbits.toNat - 5) % 2 ^ 4 = s.nbits.toNat - 5 := by omega
  rw [emitWhole_round s rounds h5, hn, topWord_eq, BitVec.toNat_ofNat, hlt, State.emit_eq]
  rfl

end

/-! ### CVT_FLUSH case by case (41_converter.md R70, R71) -/

section
variable {s : State}

theorem exec_cvtFlush_of_pad (herr : s.err = false) (hpad : s.pad = true) :
    exec .cvtFlush s = .next (cvtFlushPad s) := by
  simp [exec, execCvtFlush, herr, cvtFlush, hpad]

theorem exec_cvtFlush_of_not_pad (herr : s.err = false) (hpad : s.pad = false) :
    exec .cvtFlush s = .next (cvtFlushStrict s) := by
  simp [exec, execCvtFlush, herr, cvtFlush, hpad]

theorem cvtFlushPad_of_done (hd : s.cvtDone = true) : cvtFlushPad s = s.raise .sequence := by
  simp [cvtFlushPad, hd]

theorem cvtFlushPad_of_no_bits (hd : s.cvtDone = false) (hn : s.nbits = 0#4) :
    cvtFlushPad s = s.markFlushed := by
  have hkeep : s.setNbits 0#4 = s := by rw [← hn]; rfl
  simp [cvtFlushPad, tailWords, hd, hn, hkeep]

theorem cvtFlushPad_of_room (hd : s.cvtDone = false) (hn : 0 < s.nbits.toNat) (hroom : 1 ≤ s.free) :
    cvtFlushPad s = ((s.emit (tailWord s.acc s.nbits)).setNbits 0#4).markFlushed := by
  simp [cvtFlushPad, tailWords, hd, hn, Nat.not_lt.mpr hroom]

theorem cvtFlushPad_of_full (hd : s.cvtDone = false) (hn : 0 < s.nbits.toNat) (hfull : s.free = 0) :
    cvtFlushPad s = s.raise .outqOverflow := by
  simp [cvtFlushPad, tailWords, hd, hn, hfull]

theorem cvtFlushStrict_of_done (hd : s.cvtDone = true) : cvtFlushStrict s = s.raise .sequence := by
  simp [cvtFlushStrict, hd]

theorem cvtFlushStrict_of_badTail (hd : s.cvtDone = false) (hb : badTail s.acc s.nbits = true) :
    cvtFlushStrict s = s.raise .malformedPadding := by
  simp [cvtFlushStrict, hd, hb]

theorem cvtFlushStrict_of_goodTail (hd : s.cvtDone = false) (hb : badTail s.acc s.nbits = false) :
    cvtFlushStrict s = (s.setNbits 0#4).markFlushed := by
  simp [cvtFlushStrict, hd, hb]

end

/-- A strict flush rejects what R71 rejects, on numbers. -/
theorem badTail_iff (acc : BitVec 12) (n : BitVec 4) :
    badTail acc n = true ↔ 8 ≤ n.toNat ∨ (acc.toNat * 2 ^ (5 - n.toNat)) % 32 ≠ 0 := by
  simp [badTail, tailWord_eq, ← BitVec.toNat_inj]

/-- A tail shorter than a word is accepted exactly when all its bits are zero. -/
theorem badTail_eq_false_iff {acc : BitVec 12} {n : BitVec 4} (h4 : n.toNat ≤ 4) :
    badTail acc n = false ↔ ∀ i < n.toNat, acc.getLsbD i = false := by
  have htail : badTail acc n = false ↔ tailWord acc n = 0#5 := by simp [badTail]; omega
  rw [htail]
  constructor
  · intro hz i hi
    have hbit := getLsbD_tailWord acc n (show i + (5 - n.toNat) < 5 by omega)
    simpa [hz] using hbit.symm
  · intro hz
    refine BitVec.eq_of_getLsbD_eq fun i hi => ?_
    rw [getLsbD_tailWord acc n hi]
    simp only [BitVec.getLsbD_zero, Bool.and_eq_false_imp, decide_eq_true_eq]
    exact fun hup => hz _ (by omega)

/-! ### What the converter commands append, and their errors (41_converter.md R67 to R73) -/

/-- A push raises an error, or takes the byte and appends a word for each five bits, which fit OUTQ. -/
theorem cvtPush_outcome (v : BitVec 24) (s : State) :
    (∃ e, e ≠ .none ∧ cvtPush v s = s.raise e) ∨
    (s.cvtDone = false ∧ pushWords s.nbits ≤ s.free ∧
      ∃ ws : List Sym, ws.length = (s.nbits + 8#4).toNat / 5 ∧ cvtPush v s =
        { s with
          acc := shiftIn s.acc v
          nbits := BitVec.ofNat 4 ((s.nbits + 8#4).toNat % 5)
          outq := s.outq ++ ws
          chkAcc := if s.chain then polySteps s.chkAcc ws else s.chkAcc }) := by
  obtain hd | hd := Bool.eq_false_or_eq_true s.cvtDone
  · exact .inl ⟨_, by decide, cvtPush_of_done hd⟩
  · by_cases hv : v.toNat < 256
    · by_cases hroom : pushWords s.nbits ≤ s.free
      · obtain ⟨ws, hlen, hloop⟩ :=
          emitWhole_cases ((s.setAcc (shiftIn s.acc v)).setNbits (s.nbits + 8#4)) 3 (by omega)
        exact .inr ⟨hd, hroom, ws, hlen, (cvtPush_of_accepted hd hv hroom).trans hloop⟩
      · exact .inl ⟨_, by decide, cvtPush_of_full hd hv (by omega)⟩
    · exact .inl ⟨_, by decide, cvtPush_of_out_of_range hd (by omega)⟩

/-- A flush raises an error, or empties the converter and appends at most one word, which fits OUTQ. -/
theorem cvtFlush_outcome (s : State) :
    (∃ e, e ≠ .none ∧ cvtFlush s = s.raise e) ∨
    ∃ ws : List Sym, ws.length ≤ 1 ∧ ws.length ≤ s.free ∧ cvtFlush s =
      { s with
        nbits := 0#4
        cvtDone := true
        outq := s.outq ++ ws
        chkAcc := if s.chain then polySteps s.chkAcc ws else s.chkAcc } := by
  obtain hpad | hpad := Bool.eq_false_or_eq_true s.pad
  · rw [cvtFlush, if_pos hpad]
    obtain hd | hd := Bool.eq_false_or_eq_true s.cvtDone
    · exact .inl ⟨_, by decide, cvtFlushPad_of_done hd⟩
    · by_cases hn : s.nbits = 0#4
      · exact .inr ⟨[], by simp, by simp, by simp [cvtFlushPad_of_no_bits hd hn, State.markFlushed, ← hn]⟩
      · have hpos : 0 < s.nbits.toNat := BitVec.toNat_pos_of_ne_zero hn
        obtain hfull | hroom := Nat.eq_zero_or_pos s.free
        · exact .inl ⟨_, by decide, cvtFlushPad_of_full hd hpos hfull⟩
        · refine .inr ⟨[tailWord s.acc s.nbits], le_rfl, hroom, ?_⟩
          rw [cvtFlushPad_of_room hd hpos hroom, State.emit_eq]
          rfl
  · rw [cvtFlush, if_neg (by simp [hpad])]
    obtain hd | hd := Bool.eq_false_or_eq_true s.cvtDone
    · exact .inl ⟨_, by decide, cvtFlushStrict_of_done hd⟩
    · obtain hb | hb := Bool.eq_false_or_eq_true (badTail s.acc s.nbits)
      · exact .inl ⟨_, by decide, cvtFlushStrict_of_badTail hd hb⟩
      · refine .inr ⟨[], by simp, by simp, ?_⟩
        simp [cvtFlushStrict_of_goodTail hd hb, State.setNbits, State.markFlushed]

/-! ### The invariant (41_converter.md R72, 10_state.md R11, R13, R17) -/

section
variable {s t : State}

/-- An error with a code keeps the invariant, since it writes ERR and ECODE together (R97). -/
theorem State.Inv.raise (h : s.Inv) {e : ECode} (he : e ≠ .none) : (s.raise e).Inv := by
  obtain ⟨hnbits, hlen, -, hflushed⟩ := h
  exact ⟨hnbits, hlen, by simp [he], hflushed⟩

theorem State.Inv.obey (h : s.Inv) {f : State → State} (hf : (f s).Inv) : (s.obey f).Inv := by
  obtain ⟨-, ho⟩ | ⟨-, ho⟩ := s.obey_cases f <;> rwa [ho]

theorem startJob_inv (s : State) : s.startJob.Inv := by simp [State.Inv]

theorem resetBlock_inv (s : State) : s.resetBlock.Inv := resetMeetsTheInvariant

/-- A push leaves NBITS below five and appends what the room check allows (R67, R72). -/
theorem State.Inv.cvtPush (h : s.Inv) (v : BitVec 24) : (cvtPush v s).Inv := by
  obtain ⟨e, he, hraise⟩ | ⟨hd, hroom, ws, hlen, hpush⟩ := cvtPush_outcome v s
  · rw [hraise]
    exact h.raise he
  · obtain ⟨hnbits, hq, herr, -⟩ := h
    rw [pushWords_eq, State.free_eq] at hroom
    have hn : (s.nbits + 8#4).toNat = s.nbits.toNat + 8 := BitVec.toNat_add_of_lt (by simp; omega)
    rw [hpush]
    refine ⟨?_, ?_, herr, by simp [hd]⟩
    · simp only [BitVec.toNat_ofNat]; omega
    · simp only [List.length_append, hlen]; omega

/-- A flush empties the converter (R70, R71). -/
theorem State.Inv.cvtFlush (h : s.Inv) : (cvtFlush s).Inv := by
  obtain ⟨e, he, hraise⟩ | ⟨ws, -, hroom, hflush⟩ := cvtFlush_outcome s
  · rw [hraise]
    exact h.raise he
  · obtain ⟨-, hq, herr, -⟩ := h
    rw [State.free_eq] at hroom
    rw [hflush]
    refine ⟨by simp, ?_, herr, by simp⟩
    simp only [List.length_append]; omega

/-- CHK_CREATE appends its six digits only where they fit (R81, R103). -/
theorem State.Inv.chkCreate (h : s.Inv) : (chkCreate s).Inv := by
  obtain ⟨-, hraise⟩ | ⟨hroom, c, -, hcreate⟩ := chkCreate_cases s
  · rw [hraise]
    exact h.raise (by decide)
  · obtain ⟨hnbits, hq, herr, hflushed⟩ := h
    rw [State.free_eq] at hroom
    rw [hcreate]
    refine ⟨hnbits, ?_, herr, hflushed⟩
    simp only [List.length_append, length_digits]; omega

theorem State.Inv.exec (h : s.Inv) {i : Instr} (he : exec i s = .next t) : t.Inv := by
  obtain ⟨-, hi⟩ | ⟨-, hi⟩ | ⟨v, -, hi⟩ | ⟨-, hi⟩ | ⟨v, -, hi⟩ | ⟨-, hi⟩ | ⟨-, hi⟩ :=
    exec_cases i s <;> obtain rfl := Host.Outcome.next.inj (hi.symm.trans he)
  · exact h
  · exact startJob_inv s
  · exact h.obey (h.cvtPush v)
  · exact h.obey h.cvtFlush
  · exact h.obey h
  · exact h.obey h.chkCreate
  · exact h.obey h

theorem State.Inv.execute (h : s.Inv) {w : Word} (he : execute w s = .next t) : t.Inv := by
  obtain ⟨i, -, hi⟩ | rfl | rfl := execute_next_cases he
  · exact h.exec hi
  · exact h
  · exact h.raise (by decide)

/-- A read of DOUT shortens OUTQ, a CTRL write leaves what the invariant speaks of, a CMD write runs its word. -/
theorem State.Inv.access (h : s.Inv) {a : Access} (ha : access a s = .next t) : t.Inv := by
  obtain ⟨reply, rfl⟩ | ⟨-, -, -, rfl⟩ | ⟨d, -, rfl⟩ | ⟨w, u, -, hu, rfl⟩ := access_next_cases ha
  · exact h
  · obtain ⟨hnbits, hq, herr, hflushed⟩ := h
    exact ⟨hnbits, by simp only [State.record_outq, State.setOutq_outq, List.length_tail]; omega, herr, hflushed⟩
  · exact h
  · exact h.execute (t := u) hu

end

/-- Settles O50, event by event; the host fields are not the invariant's. -/
theorem stepKeepsTheInvariant : Obligations.StepKeepsTheInvariant := by
  intro s t h hs
  obtain ⟨-, hstep⟩ | ⟨e, es, -, hstep⟩ := step_cases s <;> rw [hstep] at hs
  · exact Host.Outcome.next.inj hs ▸ h
  have hes : (s.setPending es).Inv := h
  cases e with
  | access a => exact hes.access hs
  | reset =>
    obtain rfl := Host.Outcome.next.inj hs
    exact resetBlock_inv (s.setPending es)
  | resetDuring a =>
    obtain rfl := Host.Outcome.next.inj hs
    exact resetBlock_inv (s.setPending es)

/-! ### The obligations on one command -/

/-- Settles O12: the loop's one or two rounds on numbers. -/
theorem cvtPushCompletes : Obligations.CvtPushCompletes := by
  intro s v herr hd hv acc word n
  have hacc : shiftIn s.acc v = acc := shiftIn_eq s.acc v hv
  refine ⟨fun h1 hroom => ?_, fun h2 h4 hroom => ?_⟩
  all_goals
    have hfree : pushWords s.nbits ≤ s.free := by rw [pushWords_eq, State.free_eq]; omega
    have hn : (s.nbits + 8#4).toNat = n + 8 := BitVec.toNat_add_of_lt (by simp; omega)
    rw [exec_cvtPush_of_not_err v herr, cvtPush_of_accepted hd hv hfree, hacc]
    congr 1
  · rw [emitWhole_round_eq 2 (by simp [hn]), emitWhole_done _ 2 (by simp [hn]; omega)]
    simp [hn, State.setAcc, State.setNbits, word]
  · have hlt : (n + 3) % 16 = n + 3 := by omega
    rw [emitWhole_round_eq 2 (by simp [hn]), emitWhole_round_eq 1 (by simp [hn]; omega),
      emitWhole_done _ 1 (by simp [hn]; omega)]
    cases hc : s.chain <;> simp [hn, hlt, State.setAcc, State.setNbits, word, hc]

/-- Settles O13: the checks in their order, on numbers. -/
theorem cvtPushErrors : Obligations.CvtPushErrors := by
  intro s v herr
  rw [exec_cvtPush_of_not_err v herr]
  refine ⟨fun hd => congrArg _ (cvtPush_of_done hd), fun hd hv => congrArg _ (cvtPush_of_out_of_range hd hv),
    fun hd hv hlen hfull => congrArg _ (cvtPush_of_full hd hv ?_)⟩
  rw [pushWords_eq, State.free_eq]
  omega

/-- Settles O14, by whether bits remain and whether OUTQ has room. -/
theorem cvtFlushPadded : Obligations.CvtFlushPadded := by
  refine ⟨decodeEncode .cvtFlush, fun s herr hpad => ?_⟩
  rw [exec_cvtFlush_of_pad herr hpad, ← tailWord_eq]
  have hpos : s.nbits ≠ 0#4 → 0 < s.nbits.toNat := BitVec.toNat_pos_of_ne_zero
  refine ⟨fun hd => congrArg _ (cvtFlushPad_of_done hd), fun hd hn => congrArg _ (cvtFlushPad_of_no_bits hd hn),
    fun hd hn hlen => ?_, fun hd hn hlen => congrArg _ (cvtFlushPad_of_full hd (hpos hn) ?_)⟩
  · rw [cvtFlushPad_of_room hd (hpos hn) (by rw [State.free_eq]; omega), State.emit_eq]
    rfl
  · rw [State.free_eq]
    omega

/-- Settles O15, by R71's test of the tail on numbers. -/
theorem strictCvtFlush : Obligations.CvtFlushStrict := by
  refine ⟨decodeEncode .cvtFlush, fun s herr hpad => ?_⟩
  rw [exec_cvtFlush_of_not_pad herr hpad]
  refine ⟨fun hd => congrArg _ (cvtFlushStrict_of_done hd),
    fun hd hbad => congrArg _ (cvtFlushStrict_of_badTail hd ((badTail_iff _ _).mpr hbad)),
    fun hd h8 hzero => congrArg _ (cvtFlushStrict_of_goodTail hd ?_)⟩
  rw [← Bool.not_eq_true, badTail_iff]
  omega

/-- Settles O28: an ignored or failing command appends nothing, a push at most three words, a flush at most one. -/
theorem chainedWordsAreStepped : Obligations.ChainedWordsAreStepped := by
  intro i s t hi he
  obtain rfl | ⟨v, rfl⟩ := hi <;> obtain rfl := Host.Outcome.next.inj he
  · obtain ⟨-, ho⟩ | ⟨-, ho⟩ := s.obey_cases cvtFlush
    · exact ⟨[], by simp [ho]⟩
    · obtain ⟨e, -, hraise⟩ | ⟨ws, hlen, -, hflush⟩ := cvtFlush_outcome s
      · exact ⟨[], by simp [ho, hraise]⟩
      · exact ⟨ws, by simp [ho, hflush]; omega⟩
  · obtain ⟨-, ho⟩ | ⟨-, ho⟩ := s.obey_cases (cvtPush v)
    · exact ⟨[], by simp [ho]⟩
    · obtain ⟨e, -, hraise⟩ | ⟨-, -, ws, hlen, hpush⟩ := cvtPush_outcome v s
      · exact ⟨[], by simp [ho, hraise]⟩
      · exact ⟨ws, by simp [ho, hpush]; omega⟩

/-! ### The words of a conversion counted (41_converter.md R72) -/

/-- INIT and pushes whose words fit OUTQ convert the bytes and leave PAD alone. -/
theorem execAll_init_pushCommands (s : State) {bs : List Octet} (hfit : 8 * bs.length / 5 ≤ 64) :
    ∃ t, execAll ([Instr.init] ++ pushCommands bs) s = .next t ∧ t.Converting bs ∧ t.pad = s.pad :=
  execAll_pushCommands_converting (startJob_converting s) bs (by simpa using hfit)

section
variable {s : State} {bs : List Octet}

/-- The bits of whole words are queued, the rest is buffered. -/
theorem State.Converting.counts (h : s.Converting bs) :
    s.outq.length = 8 * bs.length / 5 ∧ s.nbits.toNat = 8 * bs.length % 5 := by
  have hcount := h.holds.count
  have h4 := h.nbits_le
  omega

/-- The tail of a conversion is accepted exactly when the stream bits still buffered are zero. -/
theorem State.Converting.badTail_eq_false_iff (h : s.Converting bs) :
    badTail s.acc s.nbits = false ↔
      ∀ j, j < 8 * bs.length % 5 → streamBit bs (8 * bs.length - 1 - j) = false := by
  obtain ⟨-, hnbits⟩ := h.counts
  rw [Machine.badTail_eq_false_iff h.nbits_le, ← hnbits]
  exact forall₂_congr fun i hi => by rw [h.holds.buffered i hi]

/-- A strict flush of a conversion fails exactly on a bad tail. -/
theorem State.Converting.cvtFlushStrict_err (h : s.Converting bs) :
    (cvtFlushStrict s).err = badTail s.acc s.nbits := by
  cases hb : badTail s.acc s.nbits with
  | true => rw [cvtFlushStrict_of_badTail h.cvtDone hb, State.raise_err]
  | false => rw [cvtFlushStrict_of_goodTail h.cvtDone hb, State.markFlushed_err, State.setNbits_err, h.err]

end

/-- Settles O16: the pushes' counts, then O17's words for the padded flush and the buffered bits for the strict
one. -/
theorem pushesCountWords : Obligations.PushesCountWords := by
  intro s bs hfit
  obtain ⟨u, hu, hconv, hpadu⟩ := execAll_init_pushCommands s hfit
  refine ⟨⟨u, hu, hconv.err, hconv.counts⟩, fun hpad hwords => ?_, fun hpad => ⟨cvtFlushStrict u, ?_, ?_⟩⟩
  · obtain ⟨t, ht, herr, -, hq⟩ := paddedConversionIsTheBitStream s bs hpad hwords
    exact ⟨t, ht, herr, by simp [hq, dataWords]⟩
  · rw [execAll_append hu, execAll, exec_cvtFlush_of_not_pad hconv.err (hpadu.trans hpad)]
    rfl
  · rw [hconv.cvtFlushStrict_err, hconv.badTail_eq_false_iff]

/-! ### The bits of a conversion (41_converter.md R74, 20_memory.md R39) -/

/-- `n` groups of `m` consecutive values are the first `m * n` values. -/
theorem flatMap_range_consecutive {α : Type} (f : Nat → α) (m n : Nat) :
    ((List.range n).flatMap fun j => (List.range m).map fun t => f (m * j + t)) = (List.range (m * n)).map f := by
  induction n with
  | zero => simp
  | succ n ih =>
    rw [List.range_succ, List.flatMap_append, ih, Nat.mul_succ, List.range_add]
    simp

/-- The bits of a word of the stream are five consecutive stream bits. -/
theorem msbFirst_streamWord (bs : List Octet) (j : Nat) :
    msbFirst (streamWord bs j) = (List.range 5).map fun t => streamBit bs (5 * j + t) := by
  refine List.map_congr_left fun t ht => ?_
  have ht5 := List.mem_range.mp ht
  rw [getLsbD_streamWord bs j (by omega)]
  congr 1
  omega

/-- The words' bits are the first stream bits. -/
theorem flatMap_msbFirst_dataWords (bs : List Octet) :
    (dataWords bs).flatMap msbFirst = (List.range (5 * wordCount bs.length)).map (streamBit bs) := by
  simp only [dataWords, List.flatMap_map, msbFirst_streamWord, flatMap_range_consecutive]

/-- The bits of the bytes are the stream bits within the input. -/
theorem flatMap_msbFirst_bytes (bs : List Octet) :
    bs.flatMap msbFirst = (List.range (8 * bs.length)).map (streamBit bs) := by
  induction bs using List.reverseRecOn with
  | nil => rfl
  | append_singleton bs b ih =>
    have hold : ∀ k ∈ List.range (8 * bs.length), streamBit (bs ++ [b]) k = streamBit bs k :=
      fun k hk => streamBit_append_of_lt [b] (List.mem_range.mp hk)
    have hnew : ((List.range 8).map fun t => streamBit (bs ++ [b]) (8 * bs.length + t)) = msbFirst b := by
      refine List.map_congr_left fun t ht => ?_
      have ht8 := List.mem_range.mp ht
      rw [← streamBit_concat_last bs b (show 7 - t < 8 by omega)]
      congr 1
      omega
    rw [List.length_append, List.length_singleton, Nat.mul_succ, List.range_add, List.map_append,
      List.map_congr_left hold, ← ih, List.map_map, Function.comp_def, hnew]
    simp

/-- Beyond the input the padded words hold zero bits only. -/
theorem flatMap_msbFirst_dataWords_eq_append (bs : List Octet) :
    (dataWords bs).flatMap msbFirst =
      bs.flatMap msbFirst ++ List.replicate (5 * wordCount bs.length - 8 * bs.length) false := by
  have hle : 8 * bs.length + (5 * wordCount bs.length - 8 * bs.length) = 5 * wordCount bs.length := by
    rw [wordCount]; omega
  have hzero : ∀ k, streamBit bs (8 * bs.length + k) = false := fun k => streamBit_of_ge (by omega)
  rw [flatMap_msbFirst_dataWords, flatMap_msbFirst_bytes, ← hle, List.range_add]
  simp [Function.comp_def, hzero]

/-- Regrouping takes a byte's bits off the front as that byte. -/
theorem regroup8_msbFirst_append (b : Octet) (rest : List Bool) :
    regroup8 (msbFirst b ++ rest) = b :: regroup8 rest := by
  have hbyte : ∀ b : Octet, BitVec.ofNat 8 ((msbFirst b).foldl (fun n x => 2 * n + x.toNat) 0) = b := by decide
  exact congrArg (· :: regroup8 rest) (hbyte b)

theorem regroup8_flatMap_msbFirst (bs : List Octet) : regroup8 (bs.flatMap msbFirst) = bs := by
  induction bs with
  | nil => rfl
  | cons b bs ih => rw [List.flatMap_cons, regroup8_msbFirst_append, ih]

/-- Settles O18: O17's words, bit by bit. -/
theorem conversionIsLossless : Obligations.ConversionIsLossless := by
  intro s bs hpad hfit
  obtain ⟨t, ht, -, -, hq⟩ := paddedConversionIsTheBitStream s bs hpad hfit
  have hbits := flatMap_msbFirst_dataWords_eq_append bs
  have hlen : (bs.flatMap msbFirst).length = 8 * bs.length := by simp [flatMap_msbFirst_bytes]
  refine ⟨t, ht, hq ▸ hbits, by rw [wordCount]; omega, ?_⟩
  rw [hq, hbits, List.take_left' hlen, regroup8_flatMap_msbFirst]

end Sys2Proof.Machine

/-!
SUPPORT. The statements of spec/42_checksum.md: PolyStep as an XOR-linear map, the polymod of a value sequence and of
its created checksum, what each checksum command does, what the commands of a job leave in CHK_ACC, then the theorems
that settle the obligations.
-/

namespace Sys2Proof.Machine

/-! ### PolyStep is linear (42_checksum.md R75, R76, R85) -/

/-- A conditional XOR of a constant is linear in the selecting bits and the accumulator together (R76). -/
theorem xorGen_xor (b b' : BitVec 5) (x y : Chk) (i : Fin 5) :
    xorGen (b ^^^ b') (x ^^^ y) i = xorGen b x i ^^^ xorGen b' y i := by
  cases hb : b.getLsbD i.val <;> cases hb' : b'.getLsbD i.val <;>
    simp only [xorGen, BitVec.getLsbD_xor, hb, hb', Bool.xor_false, Bool.xor_true, Bool.not_true, Bool.not_false,
      if_true, Bool.false_eq_true, if_false]
  · exact BitVec.xor_assoc ..
  · ac_rfl
  · have hpair : x ^^^ gen i ^^^ (y ^^^ gen i) = x ^^^ y ^^^ (gen i ^^^ gen i) := by ac_rfl
    rw [hpair, BitVec.xor_self, BitVec.xor_zero]

theorem foldl_xorGen_xor (is : List (Fin 5)) (b b' : BitVec 5) (x y : Chk) :
    is.foldl (xorGen (b ^^^ b')) (x ^^^ y) = is.foldl (xorGen b) x ^^^ is.foldl (xorGen b') y := by
  induction is generalizing x y with
  | nil => rfl
  | cons i is ih => simp only [List.foldl_cons, xorGen_xor, ih]

theorem foldl_xorGen_zero (is : List (Fin 5)) (x : Chk) : is.foldl (xorGen 0#5) x = x := by
  induction is with
  | nil => rfl
  | cons i is ih => simpa [xorGen] using ih

theorem xor_and_distrib (c d m : Chk) : (c ^^^ d) &&& m = (c &&& m) ^^^ (d &&& m) := by
  ext i hi
  simp only [BitVec.getElem_and, BitVec.getElem_xor, Bool.and_xor_distrib_right]

/-- Settles O21: each part of PolyStep is linear, the bits that select the constants among them. -/
theorem polyStepIsLinear : Obligations.PolyStepIsLinear := by
  intro c d v u
  have hshift : (((c ^^^ d) &&& 0x1FFFFFF#30) <<< 5) ^^^ (v ^^^ u).setWidth 30 =
      (((c &&& 0x1FFFFFF#30) <<< 5) ^^^ v.setWidth 30) ^^^ (((d &&& 0x1FFFFFF#30) <<< 5) ^^^ u.setWidth 30) := by
    rw [xor_and_distrib, BitVec.shiftLeft_xor_distrib, BitVec.setWidth_xor]
    ac_rfl
  simp only [polyStep, hshift, BitVec.extractLsb'_xor, foldl_xorGen_xor]

/-! ### PolyStep on natural numbers (42_checksum.md R75, R84) -/

theorem toNat_xorGen (b : BitVec 5) (c : Chk) (i : Fin 5) :
    (xorGen b c i).toNat = if b.toNat.testBit i then c.toNat ^^^ (gen i).toNat else c.toNat := by
  rw [xorGen, BitVec.getLsbD, apply_ite BitVec.toNat, BitVec.toNat_xor]

/-- `chk >> 25` has five bits. -/
theorem toNat_topBits (c : Chk) : (c.extractLsb' 25 5).toNat = c.toNat >>> 25 := by
  rw [BitVec.extractLsb'_toNat, Nat.shiftRight_eq_div_pow]
  omega

/-- `(chk & 0x1FFFFFF) << 5` has thirty bits. -/
theorem toNat_masked_shiftLeft (c : Chk) :
    ((c &&& 0x1FFFFFF#30) <<< 5).toNat = (c.toNat &&& 0x1FFFFFF) <<< 5 := by
  have hlt : c.toNat &&& 0x1FFFFFF < 2 ^ 25 := Nat.and_lt_two_pow _ (by decide)
  have hmask : 0x1FFFFFF % 2 ^ 30 = 0x1FFFFFF := rfl
  rw [BitVec.toNat_shiftLeft, BitVec.toNat_and, BitVec.toNat_ofNat, hmask, Nat.shiftLeft_eq]
  omega

/-- Settles O19: no operator of PolyStep leaves thirty bits, so each is its counterpart on natural numbers. -/
theorem polyStepOnNaturals : Obligations.PolyStepOnNaturals := by
  intro c v
  have hv : v.toNat % 2 ^ 30 = v.toNat := by omega
  simp only [polyStep, List.foldl_cons, List.foldl_nil, toNat_xorGen, toNat_topBits, BitVec.toNat_xor,
    toNat_masked_shiftLeft, BitVec.toNat_setWidth, hv]
  rfl

/-- Settles O20: the computation on natural numbers is the 30-bit PolyStep's, and a register zero-extends CHK_ACC. -/
theorem polyStepStaysInThirtyBits : Obligations.PolyStepStaysInThirtyBits := by
  refine ⟨fun chk v hchk hv => ?_, fun s => ?_⟩
  · have hstep := polyStepOnNaturals (BitVec.ofNatLT chk hchk) (BitVec.ofNatLT v hv)
    rw [BitVec.toNat_ofNatLT, BitVec.toNat_ofNatLT] at hstep
    exact hstep ▸ BitVec.isLt _
  · ext i hi
    simp [readValue]

/-! ### The polymod of a created checksum (42_checksum.md R81, R82, R85) -/

theorem polymod_append (vs ws : List Sym) : polymod (vs ++ ws) = polySteps (polymod vs) ws :=
  polySteps_append 1#30 vs ws

/-- Stepping a sequence is stepping as many zeros, and XORing what the sequence alone makes of another start (R85). -/
theorem polySteps_xor (c d : Chk) (vs : List Sym) :
    polySteps (c ^^^ d) vs = polySteps c (List.replicate vs.length 0#5) ^^^ polySteps d vs := by
  induction vs generalizing c d with
  | nil => rfl
  | cons v vs ih =>
    have hstep : polyStep (c ^^^ d) v = polyStep c 0#5 ^^^ polyStep d v := by
      simpa using polyStepIsLinear c d 0#5 v
    rw [polySteps_cons, hstep, ih]
    rfl

/-- While its top five bits are zero the accumulator takes no constant, and PolyStep only shifts in the value: where
it holds the upper bits of `c`, the next five of them (R75). -/
theorem polyStep_ushiftRight (c : Chk) (n : Nat) : polyStep (c >>> (n + 5)) (c.extractLsb' n 5) = c >>> n := by
  have htop : (c >>> (n + 5)).extractLsb' 25 5 = 0#5 := by
    ext i hi
    simp [BitVec.getLsbD_of_ge c (n + 5 + (25 + i)) (by omega)]
  have hmask : ∀ j < 25, (0x1FFFFFF#30).getLsbD j = true := by decide
  rw [polyStep, htop, foldl_xorGen_zero]
  refine BitVec.eq_of_getLsbD_eq fun i hi => ?_
  by_cases h5 : i < 5
  · simp [h5, hi]
  · have hbit : n + 5 + (i - 5) = n + i := by omega
    simp [h5, hi, hbit, hmask (i - 5) (by omega)]

/-- The six digits are the five-bit fields of the checksum, the most significant first (R29, R81). -/
theorem digits_eq (c : Chk) : digits c = [c.extractLsb' 25 5, c.extractLsb' 20 5, c.extractLsb' 15 5,
    c.extractLsb' 10 5, c.extractLsb' 5 5, c.extractLsb' 0 5] := by
  simp [digits, List.range_succ, digit_eq]

/-- From 0 the six digits of a checksum are shifted in whole. -/
theorem polySteps_zero_digits (c : Chk) : polySteps 0#30 (digits c) = c := by
  have hempty : c >>> (25 + 5) = 0#30 := BitVec.ushiftRight_eq_zero le_rfl
  rw [digits_eq, ← hempty]
  simp only [polySteps_cons, polySteps_nil, polyStep_ushiftRight c 25, polyStep_ushiftRight c 20,
    polyStep_ushiftRight c 15, polyStep_ushiftRight c 10, polyStep_ushiftRight c 5, polyStep_ushiftRight c 0]
  exact BitVec.ushiftRight_zero c

/-- The digits take the place of the six zeros: their own contribution cancels what the zeros made, but for the 1 the
checksum was XORed with (R85). -/
theorem polymod_append_checksumOf (vs : List Sym) : polymod (vs ++ checksumOf vs) = 1#30 := by
  set zeros := polymod (vs ++ List.replicate Config.nDigits 0#5) with hzeros
  have hsplit := polySteps_xor (polymod vs) 0#30 (digits (zeros ^^^ 1#30))
  rw [BitVec.xor_zero, length_digits, polySteps_zero_digits] at hsplit
  calc
    polymod (vs ++ checksumOf vs) = polySteps (polymod vs) (digits (zeros ^^^ 1#30)) := polymod_append ..
    _ = polySteps (polymod vs) (List.replicate 6 0#5) ^^^ (zeros ^^^ 1#30) := hsplit
    _ = zeros ^^^ (zeros ^^^ 1#30) := by rw [hzeros, polymod_append]
    _ = 1#30 := by rw [← BitVec.xor_assoc, BitVec.xor_self, BitVec.zero_xor]

/-! ### What each checksum command does (42_checksum.md R77 to R83) -/

theorem exec_chkStep_of_not_err (v : Sym) {s : State} (h : s.err = false) :
    exec (.chkStep v) s = .next (s.setChkAcc (polyStep s.chkAcc v)) :=
  congrArg Host.Outcome.next (s.obey_of_not_err _ h)

theorem exec_chkHi_of_not_err (c : Octet) {s : State} (h : s.err = false) :
    exec (.chkHi c) s = .next (s.setChkAcc (polyStep s.chkAcc (hiPart c))) :=
  congrArg Host.Outcome.next (s.obey_of_not_err _ h)

theorem exec_chkLo_of_not_err (c : Octet) {s : State} (h : s.err = false) :
    exec (.chkLo c) s = .next (s.setChkAcc (polyStep s.chkAcc (loPart c))) :=
  congrArg Host.Outcome.next (s.obey_of_not_err _ h)

section
variable {s : State}

theorem exec_chkCreate_of_not_err (h : s.err = false) : exec .chkCreate s = .next (chkCreate s) :=
  congrArg Host.Outcome.next (s.obey_of_not_err _ h)

theorem exec_chkVerify_of_not_err (h : s.err = false) :
    exec .chkVerify s = .next (s.setChkOk (verdict s.chkAcc)) :=
  congrArg Host.Outcome.next (s.obey_of_not_err _ h)

theorem chkCreate_of_room (hroom : 6 ≤ s.free) : chkCreate s =
    { s with
      chkAcc := polySteps s.chkAcc (List.replicate 6 0#5)
      csum := polySteps s.chkAcc (List.replicate 6 0#5) ^^^ 1#30
      outq := s.outq ++ digits (polySteps s.chkAcc (List.replicate 6 0#5) ^^^ 1#30) } := by
  obtain ⟨hfull, -⟩ | ⟨-, c, rfl, hcreate⟩ := chkCreate_cases s
  · omega
  · exact hcreate

theorem chkCreate_of_full (hfull : s.free < 6) : chkCreate s = s.raise .outqOverflow := by
  obtain ⟨-, hraise⟩ | ⟨hroom, -⟩ := chkCreate_cases s
  · exact hraise
  · omega

end

/-- A word with the OP of a command and its operand zero-extended in `OPND` decodes to the command (R49, R50). -/
theorem decode_of_operand {n : Nat} (hn : n ≤ 24) {w : Word} {i : Instr}
    (hopnd : i.operandField = (field w 0 n).setWidth 24) (hop : field w 24 8 = i.opcode)
    (hzero : field w n (24 - n) = 0#_) : decode w = .ok i := by
  rw [decode_eq_ok_iff_ofWord, Cmd32.ofWord, Instr.toCmd, hop, hopnd, (field_high_eq_zero_iff hn w).mp hzero]

theorem hiPart_eq (c : Octet) : hiPart c = BitVec.ofNat 5 (c.toNat / 32) := by
  apply BitVec.eq_of_toNat_eq
  simp [hiPart, Nat.shiftRight_eq_div_pow]

theorem loPart_eq (c : Octet) : loPart c = BitVec.ofNat 5 (c.toNat % 32) := by
  apply BitVec.eq_of_toNat_eq
  have hmask : 31 % 2 ^ 8 = 2 ^ 5 - 1 := rfl
  rw [loPart, BitVec.toNat_setWidth, BitVec.toNat_and, BitVec.toNat_ofNat, BitVec.toNat_ofNat, hmask,
    Nat.and_two_pow_sub_one_eq_mod]

/-- Settles O22: CHK_STEP's meaning, and R53 for the words of its OP. -/
theorem chkStepStepsItsValue : Obligations.ChkStepStepsItsValue := by
  obtain ⟨hreserved, hillegal⟩ := reservedWordsAreIllegal
  refine ⟨fun s v herr => exec_chkStep_of_not_err v herr,
    fun w hop hzero => decode_of_operand (n := 5) (by omega) rfl hop hzero, fun w s hop hset herr => ?_⟩
  obtain ⟨e, he⟩ := (hreserved w).mpr (.inr (.inr (.inr (.inr (.inl ⟨hop, hset⟩)))))
  exact hillegal w e s he herr

/-- Settles O23: the two halves as quotient and remainder by 32, and R53 for the words of the two OPs. -/
theorem hrpCharacterHalvesAreStepped : Obligations.HrpCharacterHalvesAreStepped := by
  obtain ⟨hreserved, hillegal⟩ := reservedWordsAreIllegal
  refine ⟨fun s c herr => ?_, fun w hop hzero => decode_of_operand (n := 8) (by omega) rfl hop hzero,
    fun w hop hzero => decode_of_operand (n := 8) (by omega) rfl hop hzero, fun w s hop hset herr => ?_⟩
  · rw [← hiPart_eq, ← loPart_eq]
    exact ⟨exec_chkHi_of_not_err c herr, exec_chkLo_of_not_err c herr⟩
  · obtain ⟨e, he⟩ := (hreserved w).mpr (.inr (.inr (.inr (.inr (.inr ⟨by simpa using hop, hset⟩)))))
    exact hillegal w e s he herr

/-- Settles O25, by whether six entries are free. -/
theorem chkCreateQueuesTheDigits : Obligations.ChkCreateQueuesTheDigits := by
  refine ⟨decodeEncode .chkCreate, fun s herr => ?_⟩
  intro z c
  rw [exec_chkCreate_of_not_err herr]
  refine ⟨fun hroom => ?_, fun hfull => congrArg _ (chkCreate_of_full (by rw [State.free_eq]; omega))⟩
  rw [← digits_eq, chkCreate_of_room (by rw [State.free_eq]; omega)]
  rfl

/-- Settles O26, by the two values of the verdict. -/
theorem chkVerifyRecordsTheVerdict : Obligations.ChkVerifyRecordsTheVerdict := by
  refine ⟨decodeEncode .chkVerify, fun s herr => ?_⟩
  rw [exec_chkVerify_of_not_err herr]
  refine ⟨fun hone => ?_, fun hne => ?_⟩
  · rw [verdict, beq_iff_eq.mpr hone]
    rfl
  · rw [verdict, beq_eq_false_iff_ne.mpr hne]
    rfl

/-! ### Commands that only step (42_checksum.md R77 to R80, R82) -/

/-- Commands that each step one value step those values in order and change nothing else. -/
theorem execAll_map_of_steps {α : Type} {f : α → Instr} {g : α → Sym}
    (hf : ∀ (a : α) {s : State}, s.err = false → exec (f a) s = .next (s.setChkAcc (polyStep s.chkAcc (g a))))
    (as : List α) {s : State} (herr : s.err = false) :
    execAll (as.map f) s = .next (s.setChkAcc (polySteps s.chkAcc (as.map g))) := by
  induction as generalizing s with
  | nil => rfl
  | cons a as ih =>
    simp only [List.map_cons, execAll, hf a herr]
    exact ih herr

theorem execAll_map_chkStep (vs : List Sym) {s : State} (herr : s.err = false) :
    execAll (vs.map Instr.chkStep) s = .next (s.setChkAcc (polySteps s.chkAcc vs)) := by
  rw [execAll_map_of_steps exec_chkStep_of_not_err vs herr, List.map_id']

/-- The commands of `chk.hrp` step `hrp_expand` (R59, R80). -/
theorem execAll_hrpCommands (hrp : List Octet) {s : State} (herr : s.err = false) :
    execAll (hrpCommands hrp) s = .next (s.setChkAcc (polySteps s.chkAcc (hrpExpand hrp))) := by
  have hhi := execAll_map_of_steps exec_chkHi_of_not_err hrp herr
  have hmid := (execAll_append hhi).trans (execAll_map_chkStep [0#5] (by exact herr))
  have hlo := (execAll_append hmid).trans (execAll_map_of_steps exec_chkLo_of_not_err hrp (by exact herr))
  rw [hrpExpand, polySteps_append, polySteps_append]
  exact hlo

/-- Settles O24: INIT starts CHK_ACC at 1, and the halves are quotients and remainders by 32. -/
theorem hrpCommandsStepTheExpansion : Obligations.HrpCommandsStepTheExpansion := by
  intro s hrp
  simp only [← hiPart_eq, ← loPart_eq]
  exact execAll_hrpCommands hrp s.startJob_err

/-- INIT and CHK_STEPs leave CHK_ACC at the polymod of their values (R82). -/
theorem execAll_init_chkSteps (s : State) (vs : List Sym) :
    execAll ([Instr.init] ++ vs.map Instr.chkStep) s = .next (s.startJob.setChkAcc (polymod vs)) :=
  execAll_map_chkStep vs s.startJob_err

/-- CHK_CREATE after them queues the checksum of the values (R81). -/
theorem execAll_create_outq (s : State) (vs : List Sym) :
    ∃ t, execAll ([Instr.init] ++ vs.map Instr.chkStep ++ [Instr.chkCreate]) s = .next t ∧
      t.outq = checksumOf vs := by
  refine ⟨chkCreate (s.startJob.setChkAcc (polymod vs)), execAll_append (execAll_init_chkSteps s vs), ?_⟩
  rw [chkCreate_of_room (by simp [State.free_eq]), checksumOf, polymod_append]
  rfl

/-- CHK_VERIFY after them records whether the polymod of the values is 1 (R83). -/
theorem execAll_verify (s : State) (vs : List Sym) :
    execAll ([Instr.init] ++ vs.map Instr.chkStep ++ [Instr.chkVerify]) s =
      .next ((s.startJob.setChkAcc (polymod vs)).setChkOk (verdict (polymod vs))) :=
  execAll_append (execAll_init_chkSteps s vs)

/-- Settles O29: the queued digits are the checksum of the values, and the polymod of both is 1. -/
theorem createdChecksumVerifies : Obligations.CreatedChecksumVerifies := by
  refine ⟨polymod_append_checksumOf, fun s u vs => ?_⟩
  obtain ⟨t, ht, hq⟩ := execAll_create_outq s vs
  refine ⟨t, ht, by simp [hq, checksumOf], _, execAll_verify u (vs ++ t.outq), ?_, rfl⟩
  rw [State.setChkOk_chkOk, hq, polymod_append_checksumOf]
  rfl

/-! ### CHK_ACC after a job (42_checksum.md R82) -/

/-- CHK_CREATE steps six zeros unless it fails. -/
theorem chkCreate_chkAcc {s : State} (h : (chkCreate s).err = false) :
    (chkCreate s).chkAcc = polySteps s.chkAcc (List.replicate 6 0#5) := by
  obtain hfull | hroom := Nat.lt_or_ge s.free 6
  · simp [chkCreate_of_full hfull] at h
  · rw [chkCreate_of_room hroom]

/-- A command other than INIT that leaves ERR = 0 found ERR = 0 (R98). -/
theorem err_of_exec {i : Instr} {s t : State} (hi : i ≠ .init) (he : exec i s = .next t) (ht : t.err = false) :
    s.err = false := by
  by_contra hs
  rw [exec_of_err (by simpa using hs) hi] at he
  exact hs (Host.Outcome.next.inj he ▸ ht)

/-- A command other than INIT that leaves ERR = 0 steps into CHK_ACC the values it is said to step. -/
theorem chkAcc_of_exec {i : Instr} {s t : State} (hi : i ≠ .init) (he : exec i s = .next t) (ht : t.err = false) :
    t.chkAcc = polySteps s.chkAcc (steppedBetween i s t) := by
  have hs := err_of_exec hi he ht
  have result {u : State} (hu : exec i s = .next u) : t.chkAcc = u.chkAcc :=
    congrArg State.chkAcc (Host.Outcome.next.inj (he.symm.trans hu))
  have converter (hc : i = .cvtFlush ∨ ∃ v, i = .cvtPush v) :
      t.chkAcc = polySteps s.chkAcc (if s.chain then t.outq.drop s.outq.length else []) := by
    obtain ⟨ws, hq, -, hacc⟩ := chainedWordsAreStepped i s t hc he
    rw [hacc, hq, List.drop_left, apply_ite (polySteps s.chkAcc)]
    rfl
  cases i with
  | nop => exact result rfl
  | init => exact absurd rfl hi
  | cvtPush v => exact converter (.inr ⟨v, rfl⟩)
  | cvtFlush => exact converter (.inl rfl)
  | chkStep v => exact result (exec_chkStep_of_not_err v hs)
  | chkHi c => exact result (exec_chkHi_of_not_err c hs)
  | chkLo c => exact result (exec_chkLo_of_not_err c hs)
  | chkCreate =>
    obtain rfl := Host.Outcome.next.inj ((exec_chkCreate_of_not_err hs).symm.trans he)
    exact chkCreate_chkAcc ht
  | chkVerify => exact (result (exec_chkVerify_of_not_err hs) :)

/-- Commands other than INIT that leave ERR = 0 found ERR = 0. -/
theorem err_of_execAll {is : List Instr} {s t : State} (his : ∀ i ∈ is, i ≠ .init) (he : execAll is s = .next t)
    (ht : t.err = false) : s.err = false := by
  induction is generalizing s with
  | nil => exact Host.Outcome.next.inj he ▸ ht
  | cons i is ih =>
    obtain ⟨hi, his⟩ := List.forall_mem_cons.mp his
    obtain ⟨u, hu⟩ := exec_total i s
    simp only [execAll, hu] at he
    exact err_of_exec hi hu (ih his he)

/-- Commands other than INIT that leave ERR = 0 step the job's values in order (R82). -/
theorem chkAcc_of_execAll {is : List Instr} {s t : State} (his : ∀ i ∈ is, i ≠ .init) (he : execAll is s = .next t)
    (ht : t.err = false) : t.chkAcc = polySteps s.chkAcc (jobSteps is s) := by
  induction is generalizing s with
  | nil => rw [← Host.Outcome.next.inj he]; rfl
  | cons i is ih =>
    obtain ⟨hi, his⟩ := List.forall_mem_cons.mp his
    obtain ⟨u, hu⟩ := exec_total i s
    simp only [execAll, hu] at he
    have hfirst := chkAcc_of_exec hi hu (err_of_execAll his he ht)
    rw [jobSteps_cons is hu, polySteps_append, ← hfirst, ih his he]

/-- Commands other than the converter's step their own values, whatever the state. -/
theorem jobSteps_of_not_converter {is : List Instr} (his : ∀ i ∈ is, i ≠ .cvtFlush ∧ ∀ v, i ≠ .cvtPush v)
    (s : State) : jobSteps is s = is.flatMap steppedBy := by
  induction is generalizing s with
  | nil => rfl
  | cons i is ih =>
    obtain ⟨⟨hflush, hpush⟩, his⟩ := List.forall_mem_cons.mp his
    obtain ⟨t, ht⟩ := exec_total i s
    have hown : steppedBetween i s t = steppedBy i := by
      cases i with
      | cvtPush v => exact absurd rfl (hpush v)
      | cvtFlush => exact absurd rfl hflush
      | _ => rfl
    rw [jobSteps_cons is ht, hown, ih his, List.flatMap_cons]

/-- Settles O27: INIT starts CHK_ACC at 1, and the commands after it step the job's values. -/
theorem chkAccIsThePolymodOfTheJob : Obligations.ChkAccIsThePolymodOfTheJob := by
  refine ⟨rfl, fun vs v => polymod_append vs [v], fun s t is his he ht => ?_⟩
  have hacc : t.chkAcc = polymod (jobSteps is s.startJob) := chkAcc_of_execAll (s := s.startJob) his he ht
  exact ⟨hacc, fun hown => by rw [hacc, jobSteps_of_not_converter hown]⟩

end Sys2Proof.Machine

/-!
SUPPORT. The statements of spec/43_host_access.md about ID, CTRL and DOUT: the layout of CTRL on numbers, what a step
on a CTRL write and on a DOUT read does, then the theorems that settle the obligations.
-/

namespace Sys2Proof.Machine

/-! ### CTRL and DOUT (43_host_access.md R89, R92) -/

/-- CTRL on numbers: CHAIN in bit 1, PAD in bit 0 (R23). -/
theorem ctrlWord_eq (s : State) : ctrlWord s = BitVec.ofNat 32 (2 * s.chain.toNat + s.pad.toNat) := by
  unfold ctrlWord
  cases s.chain <;> cases s.pad <;> rfl

/-- A step on a CTRL write takes PAD and CHAIN from the word and answers the write's completion (R89). -/
theorem step_wr_ctrl {s : State} {es : List HostEvent} {d : Word} (hp : s.pending = wr 0x04 d :: es) :
    step s = .next (((s.setPending es).setCtrl (d.getLsbD 0) (d.getLsbD 1)).record (wr 0x04 d) (some .ok)) :=
  step_wr (r := .ctrl) hp

/-- A step on a DOUT read drops the head of OUTQ, if there is one, and answers what DOUT shows (R92). -/
theorem step_rd_dout {s : State} {es : List HostEvent} (hp : s.pending = rd 0x10 :: es) :
    step s = .next (((s.setPending es).setOutq s.outq.tail).record (rd 0x10) (some (.data (doutWord s.outq)))) :=
  step_rd (r := .dout) hp

/-! ### The obligations of 43_host_access.md -/

/-- Settles O38: ID shows the constant, and it is not DOUT. -/
theorem idReadsItsConstant : Obligations.IdReadsItsConstant :=
  readsAs_offset (r := .id) (by decide) fun _ => rfl

/-- Settles O39: the layout of CTRL on numbers, and the step on a write of it. -/
theorem ctrlReadsAndWritesPadAndChain : Obligations.CtrlReadsAndWritesPadAndChain :=
  ⟨readsAs_offset (r := .ctrl) (by decide) ctrlWord_eq, fun _ _ _ => step_wr_ctrl⟩

/-- Settles O41, by the two shapes of the queue. -/
theorem doutTakesTheHead : Obligations.DoutTakesTheHead := by
  refine ⟨fun s es hp => ⟨fun hempty => ?_, fun w ws hhead => ?_⟩,
    writeIgnored_offset (r := .dout) (by decide) (by decide)⟩
  · rw [step_rd_dout hp, hempty]
    rfl
  · rw [step_rd_dout hp, hhead]
    rfl

end Sys2Proof.Machine

/-!
SUPPORT. The statements of spec/60_exceptions.md: what a command word leaves with ERR = 0 (R97, R99), what a step
leaves with ERR = 1 (R98), then the theorems that settle the obligations.
-/

namespace Sys2Proof.Machine

/-! ### Errors are precise (60_exceptions.md R97) -/

section
variable {s t : State} {w : Word}

/-- A command word at ERR = 0 raises an error with a code and does nothing else, or leaves ERR = 0. -/
theorem execute_raises_or_not_err (herr : s.err = false) (h : execute w s = .next t) :
    (∃ e, e ≠ .none ∧ t = s.raise e) ∨ t.err = false := by
  obtain ⟨i, -, he⟩ | rfl | rfl := execute_next_cases h
  · obtain ⟨-, hi⟩ | ⟨-, hi⟩ | ⟨v, -, hi⟩ | ⟨-, hi⟩ | ⟨v, -, hi⟩ | ⟨-, hi⟩ | ⟨-, hi⟩ :=
      exec_cases i s <;> obtain rfl := Host.Outcome.next.inj (hi.symm.trans he)
    · exact .inr herr
    · exact .inr rfl
    · rw [s.obey_of_not_err _ herr]
      obtain hraise | ⟨-, -, ws, -, hpush⟩ := cvtPush_outcome v s
      · exact .inl hraise
      · exact .inr (by rw [hpush, herr])
    · rw [s.obey_of_not_err _ herr]
      obtain hraise | ⟨ws, -, -, hflush⟩ := cvtFlush_outcome s
      · exact .inl hraise
      · exact .inr (by rw [hflush, herr])
    · exact .inr (by simp [herr])
    · rw [s.obey_of_not_err _ herr]
      obtain ⟨-, hraise⟩ | ⟨-, c, -, hcreate⟩ := chkCreate_cases s
      · exact .inl ⟨_, by decide, hraise⟩
      · exact .inr (by rw [hcreate, herr])
    · exact .inr (by simp [herr])
  · exact .inr herr
  · exact .inl ⟨_, by decide, rfl⟩

end

/-! ### The order of the checks (60_exceptions.md R99 to R104) -/

/-- `t` is what R99 leaves of `s` when its first failing check is the given one: that error and nothing else, or with
no failing check a state without error. -/
def State.ChecksGive (s t : State) : Option ECode → Prop
  | some e => t = s.failed e
  | none   => t.err = false

@[simp] theorem State.checksGive_some (s t : State) (e : ECode) : s.ChecksGive t (some e) ↔ t = s.failed e := Iff.rfl

@[simp] theorem State.checksGive_none (s t : State) : s.ChecksGive t none ↔ t.err = false := Iff.rfl

section
variable {s : State} {w : Word}

/-- For a legal bit count a strict flush rejects exactly a tail with a bit set (R101). -/
theorem badTail_iff_mod (acc : BitVec 12) {n : BitVec 4} (h4 : n.toNat ≤ 4) :
    badTail acc n = true ↔ acc.toNat % 2 ^ n.toNat ≠ 0 := by
  have hword : 32 = 2 ^ n.toNat * 2 ^ (5 - n.toNat) := by
    rw [← pow_add, Nat.add_sub_cancel' (by omega)]; rfl
  have htail : acc.toNat * 2 ^ (5 - n.toNat) % 32 = acc.toNat % 2 ^ n.toNat * 2 ^ (5 - n.toNat) := by
    rw [hword, Nat.mul_mod_mul_right]
  rw [badTail_iff, or_iff_right (by omega), htail, mul_ne_zero_iff_right (by positivity)]

/-- For a legal bit count a push emits one word or two, as R103 counts them. -/
theorem pushWords_of_le {n : BitVec 4} (h4 : n.toNat ≤ 4) :
    pushWords n = if n.toNat ≤ 1 then 1 else 2 := by
  rw [pushWords_eq]
  split <;> omega

theorem cvtPush_checksGive {v : BitVec 24} (hd : decode w = .ok (.cvtPush v)) (hinv : s.Inv) (herr : s.err = false) :
    s.ChecksGive (cvtPush v s) (firstError w s) := by
  obtain ⟨hnbits, hlen, -, -⟩ := hinv
  simp only [firstError, hd, ← pushWords_of_le hnbits]
  split_ifs with hdone hrange hfull
  · exact cvtPush_of_done hdone
  · exact cvtPush_of_out_of_range (by simpa using hdone) hrange
  · exact cvtPush_of_full (by simpa using hdone) (by omega) (by rw [State.free_eq]; omega)
  · obtain ⟨ws, -, hloop⟩ := emitWhole_cases ((s.setAcc (shiftIn s.acc v)).setNbits (s.nbits + 8#4)) 3 (by omega)
    have hroom : pushWords s.nbits ≤ s.free := by rw [State.free_eq]; omega
    rw [cvtPush_of_accepted (by simpa using hdone) (by omega) hroom, hloop]
    exact herr

theorem cvtFlushPad_checksGive (hd : decode w = .ok .cvtFlush) (hpad : s.pad = true) (herr : s.err = false) :
    s.ChecksGive (cvtFlushPad s) (firstError w s) := by
  simp only [firstError, hd, hpad, reduceCtorEq, false_and, true_and, if_false]
  split_ifs with hdone hfull
  · exact cvtFlushPad_of_done hdone
  · obtain ⟨hn, hlen⟩ := hfull
    exact cvtFlushPad_of_full (by simpa using hdone) (BitVec.toNat_pos_of_ne_zero hn) (by rw [State.free_eq]; omega)
  · have hopen : s.cvtDone = false := by simpa using hdone
    by_cases hn : s.nbits = 0#4
    · rw [cvtFlushPad_of_no_bits hopen hn]
      exact herr
    · have hroom : 1 ≤ s.free := by
        have hlen : ¬ 64 < s.outq.length + 1 := not_and.mp hfull hn
        rw [State.free_eq]
        omega
      rw [cvtFlushPad_of_room hopen (BitVec.toNat_pos_of_ne_zero hn) hroom, State.emit_eq]
      exact herr

theorem cvtFlushStrict_checksGive (hd : decode w = .ok .cvtFlush) (hpad : s.pad = false) (hinv : s.Inv)
    (herr : s.err = false) : s.ChecksGive (cvtFlushStrict s) (firstError w s) := by
  obtain ⟨hnbits, -, -, -⟩ := hinv
  simp only [firstError, hd, hpad, reduceCtorEq, false_and, true_and, if_false, ← badTail_iff_mod s.acc hnbits]
  split_ifs with hdone hbad
  · exact cvtFlushStrict_of_done hdone
  · exact cvtFlushStrict_of_badTail (by simpa using hdone) hbad
  · rw [cvtFlushStrict_of_goodTail (by simpa using hdone) (by simpa using hbad)]
    exact herr

theorem cvtFlush_checksGive (hd : decode w = .ok .cvtFlush) (hinv : s.Inv) (herr : s.err = false) :
    s.ChecksGive (cvtFlush s) (firstError w s) := by
  unfold cvtFlush
  split
  · next hpad => exact cvtFlushPad_checksGive hd hpad herr
  · next hpad => exact cvtFlushStrict_checksGive hd (by simpa using hpad) hinv herr

theorem chkCreate_checksGive (hd : decode w = .ok .chkCreate) (herr : s.err = false) :
    s.ChecksGive (chkCreate s) (firstError w s) := by
  simp only [firstError, hd]
  split_ifs with hfull
  · exact chkCreate_of_full (by rw [State.free_eq]; omega)
  · rw [chkCreate_of_room (by rw [State.free_eq]; omega)]
    exact herr

/-- With ERR = 0 every command word leaves what its first failing check says (R99). -/
theorem execute_checksGive (w : Word) (hinv : s.Inv) (herr : s.err = false) :
    ∃ t, execute w s = .next t ∧ s.ChecksGive t (firstError w s) := by
  cases hd : decode w with
  | error e => exact ⟨_, execute_of_illegal hd herr, by simp [firstError, hd]⟩
  | ok i =>
    rw [execute_of_decode hd]
    cases i with
    | cvtPush v => exact ⟨_, exec_cvtPush_of_not_err v herr, cvtPush_checksGive hd hinv herr⟩
    | cvtFlush => exact ⟨_, congrArg Host.Outcome.next (s.obey_of_not_err _ herr), cvtFlush_checksGive hd hinv herr⟩
    | chkCreate => exact ⟨_, exec_chkCreate_of_not_err herr, chkCreate_checksGive hd herr⟩
    | nop => exact ⟨s, rfl, by simp [firstError, hd, herr]⟩
    | init => exact ⟨s.startJob, rfl, by simp [firstError, hd]⟩
    | chkStep v => exact ⟨_, exec_chkStep_of_not_err v herr, by simp [firstError, hd, herr]⟩
    | chkHi c => exact ⟨_, exec_chkHi_of_not_err c herr, by simp [firstError, hd, herr]⟩
    | chkLo c => exact ⟨_, exec_chkLo_of_not_err c herr, by simp [firstError, hd, herr]⟩
    | chkVerify => exact ⟨_, exec_chkVerify_of_not_err herr, by simp [firstError, hd, herr]⟩

end

/-! ### Errors are sticky (60_exceptions.md R98, R109) -/

/-- With ERR = 1 every word but the exact INIT is ignored. -/
theorem execute_of_err {w : Word} {s : State} (herr : s.err = true) (hw : w ≠ 0x01000000#32) :
    execute w s = .next s := by
  obtain ⟨-, hignored, -⟩ := executeTestsErrFirst w s
  exact hignored herr hw

/-- An access that clears ERR is a CMD write of the exact INIT word (R98). -/
theorem startsJob_of_access_clears_err {a : Access} {s t : State} (herr : s.err = true) (h : access a s = .next t)
    (ht : t.err = false) : (HostEvent.access a).startsJob = true := by
  obtain ⟨reply, rfl⟩ | ⟨-, -, -, rfl⟩ | ⟨d, -, rfl⟩ | ⟨w, u, ha, hu, rfl⟩ := access_next_cases h
  · simp [herr] at ht
  · simp [herr] at ht
  · simp [herr] at ht
  · by_cases hw : w = 0x01000000#32
    · rw [ha, hw]
      rfl
    · obtain rfl := Host.Outcome.next.inj ((execute_of_err herr hw).symm.trans hu)
      simp [herr] at ht

/-! ### The obligations of 60_exceptions.md -/

/-- Settles O30, from what each command leaves by its first failing check; ECODE is 0 by the invariant. -/
theorem checksComeInOrder : Obligations.ChecksComeInOrder := by
  refine fun w s hinv => ⟨execute_of_err, fun herr e he => ?_, fun herr hnone => ?_⟩
  all_goals obtain ⟨t, ht, hchecks⟩ := execute_checksGive w hinv herr
  · rw [he] at hchecks
    exact ht.trans (congrArg _ hchecks)
  · rw [hnone] at hchecks
    obtain ⟨-, -, hcode, -⟩ := hinv.execute ht
    exact ⟨t, ht, hchecks, hcode.mp hchecks⟩

/-- Settles O31: a word at ERR = 0 that does not raise leaves ERR = 0. -/
theorem errorsArePrecise : Obligations.ErrorsArePrecise := by
  intro w s t herr h ht
  obtain ⟨e, he, rfl⟩ | hclear := execute_raises_or_not_err herr h
  · exact ⟨he, rfl⟩
  · simp [hclear] at ht

/-- Settles O32: the ignored words, INIT's meaning, and the steps on reads and CTRL writes, which do not look at ERR. -/
theorem errorsAreSticky : Obligations.ErrorsAreSticky := by
  refine fun s es herr => ⟨fun w hw hp => ?_, fun hp => ?_, fun off r hoff hr hp => ?_, step_rd_dout,
    fun d => step_wr_ctrl⟩
  · have hstep : step s = answered (wrCmd w) .ok (execute w (s.setPending es)) := step_wr (r := .cmd) hp
    rw [hstep, execute_of_err (s := s.setPending es) herr hw]
    rfl
  · exact ⟨_, step_wrCmd_of_decode hp (decodeEncode .init), rfl, rfl⟩
  · obtain rfl := registerAt_eq_some_iff.mp hoff
    exact readsAs_offset hr (fun _ => rfl) s es hp

/-- Settles O33: resets start a job, and an access that clears ERR does. -/
theorem onlyInitAndResetClearErr : Obligations.OnlyInitAndResetClearErr := by
  intro s t herr hs ht
  obtain ⟨-, hstep⟩ | ⟨e, es, hp, hstep⟩ := step_cases s <;> rw [hstep] at hs
  · obtain rfl := Host.Outcome.next.inj hs
    simp [herr] at ht
  refine ⟨e, es, hp, ?_⟩
  cases e with
  | reset => rfl
  | resetDuring a => rfl
  | access a => exact startsJob_of_access_clears_err (s := s.setPending es) herr hs ht

end Sys2Proof.Machine

/-!
SUPPORT. The statements of spec/70_reset_and_hazards.md about the encode job: what its commands queue, when it is
complete, and what the host's run of it leaves, then the theorems that settle the obligations.
-/

namespace Sys2Proof.Machine

/-! ### The commands of the encode job (70_reset_and_hazards.md R117, 41_converter.md R69, 42_checksum.md R81) -/

/-- With CHAIN = 1 converter commands step exactly the words they queue, in the order of the queue (R69). -/
theorem execAll_converter_chained {is : List Instr} {s t : State}
    (his : ∀ i ∈ is, i = .cvtFlush ∨ ∃ v, i = .cvtPush v) (hchain : s.chain = true) (he : execAll is s = .next t) :
    ∃ ws, t.outq = s.outq ++ ws ∧ t.chkAcc = polySteps s.chkAcc ws := by
  induction is generalizing s with
  | nil => exact ⟨[], by simp [Host.Outcome.next.inj he]⟩
  | cons i is ih =>
    obtain ⟨hi, his⟩ := List.forall_mem_cons.mp his
    obtain ⟨u, hu⟩ := exec_total i s
    simp only [execAll, hu] at he
    obtain ⟨ws, hq, -, hacc⟩ := chainedWordsAreStepped i s u hi hu
    obtain ⟨-, -, -, -, -, -, -, -, -, hkeep, -⟩ := onlyNamedCommandsWriteAnElement i s u hu
    obtain ⟨ws', hq', hacc'⟩ := ih his (hkeep.trans hchain) he
    exact ⟨ws ++ ws', by simp [hq', hq], by simp [hacc', hacc, hchain, polySteps_append]⟩

/-- The pushes and a padded flush of a conversion that fits OUTQ queue the data words and, with CHAIN = 1, step them
(R39, R69). -/
theorem execAll_conversion_chained {s : State} {bs : List Octet} (h : s.Converting []) (hpad : s.pad = true)
    (hchain : s.chain = true) (hfit : wordCount bs.length ≤ 64) :
    ∃ t, execAll (pushCommands bs ++ [Instr.cvtFlush]) s = .next t ∧ t.err = false ∧ t.cvtDone = true ∧
      t.outq = dataWords bs ∧ t.chkAcc = polySteps s.chkAcc (dataWords bs) := by
  obtain ⟨hlen, -⟩ := h.counts
  have hempty : s.outq = [] := List.eq_nil_of_length_eq_zero hlen
  have hpushes : 8 * (([] : List Octet).length + bs.length) / 5 ≤ 64 := by
    rw [wordCount] at hfit
    simp only [List.length_nil]
    omega
  obtain ⟨u, hu, hconv, hpadu⟩ := execAll_pushCommands_converting h bs hpushes
  obtain ⟨t, ht, herr, hdone, hq⟩ := exec_cvtFlush_converting hconv (hpadu.trans hpad) hfit
  have hrun : execAll (pushCommands bs ++ [Instr.cvtFlush]) s = .next t := by
    rw [execAll_append hu, execAll, ht]
    rfl
  have hkinds : ∀ i ∈ pushCommands bs ++ [Instr.cvtFlush], i = .cvtFlush ∨ ∃ v, i = .cvtPush v := by
    intro i hi
    obtain hpush | hflush := List.mem_append.mp hi
    · obtain ⟨b, -, rfl⟩ := List.mem_map.mp hpush
      exact .inr ⟨_, rfl⟩
    · exact .inl (List.mem_singleton.mp hflush)
  obtain ⟨ws, hws, hacc⟩ := execAll_converter_chained hkinds hchain hrun
  rw [hempty, List.nil_append, hq] at hws
  exact ⟨t, hrun, herr, hdone, hq, hws ▸ hacc⟩

/-- What has been stepped into CHK_ACC since INIT is nothing to the converter. -/
theorem startJob_setChkAcc_converting (s : State) (c : Chk) : (s.startJob.setChkAcc c).Converting [] :=
  ⟨rfl, rfl, Nat.zero_le 4, ⟨rfl, rfl, nofun⟩⟩

/-- Settles O53: `chk.hrp` after INIT, then the chained conversion, then CHK_CREATE on what both have stepped. -/
theorem encodeCommandsQueueTheEncoding : Obligations.EncodeCommandsQueueTheEncoding := by
  intro s hrp bs hpad hchain hfit
  have hhrp : execAll ([Instr.init] ++ hrpCommands hrp) s =
      .next (s.startJob.setChkAcc (polymod (hrpExpand hrp))) := execAll_hrpCommands hrp s.startJob_err
  obtain ⟨t, ht, herr, hdone, hq, hacc⟩ := execAll_conversion_chained (bs := bs)
    (startJob_setChkAcc_converting s (polymod (hrpExpand hrp))) hpad hchain (by omega)
  rw [State.setChkAcc_chkAcc, ← polymod_append] at hacc
  have hroom : 6 ≤ t.free := by
    have hlen : t.outq.length = wordCount bs.length := by simp [hq, dataWords]
    rw [State.free_eq]
    omega
  have hcommands : encodeCommands hrp bs =
      [Instr.init] ++ hrpCommands hrp ++ (pushCommands bs ++ [Instr.cvtFlush] ++ [Instr.chkCreate]) := by
    simp [encodeCommands]
  refine ⟨chkCreate t, ?_, ?_⟩
  · rw [hcommands, execAll_append hhrp, execAll_append ht, execAll, exec_chkCreate_of_not_err herr]
    rfl
  · rw [chkCreate_of_room hroom, checksumOf, polymod_append, ← hacc, hq]
    exact ⟨herr, hdone, rfl⟩

/-! ### What a step adds to the job's record (70_reset_and_hazards.md R118) -/

/-- A step on an event records it with ERR as the event leaves it. -/
theorem history_of_step {s t : State} {e : HostEvent} {es : List HostEvent} (hp : s.pending = e :: es)
    (hs : step s = .next t) : ∃ reply, t.history = ⟨e, reply, t.err⟩ :: s.history := by
  rw [step_of_pending hp] at hs
  cases e with
  | access a =>
    obtain ⟨u, reply, hu, -, hhist, -⟩ := access_total a (s.setPending es)
    obtain rfl := Host.Outcome.next.inj (hu.symm.trans hs)
    exact ⟨reply, hhist⟩
  | reset =>
    obtain rfl := Host.Outcome.next.inj hs
    exact ⟨none, rfl⟩
  | resetDuring a =>
    obtain rfl := Host.Outcome.next.inj hs
    exact ⟨none, rfl⟩

/-- An event that starts no job is added to the job's record. -/
theorem jobHistory_of_step {s t : State} {e : HostEvent} {es : List HostEvent} (hp : s.pending = e :: es)
    (he : e.startsJob = false) (hs : step s = .next t) :
    ∃ reply, t.jobHistory = s.jobHistory ++ [⟨e, reply, t.err⟩] := by
  obtain ⟨reply, hhist⟩ := history_of_step hp hs
  exact ⟨reply, State.jobHistory_of_cons hhist he⟩

theorem State.encodeComplete_iff (s : State) : s.encodeComplete = true ↔
    s.jobHistory.any (Handled.ranWithoutError 0x11000000#32) = true ∧
      s.jobHistory.any (Handled.ranWithoutError 0x23000000#32) = true := by
  simp [State.encodeComplete]

/-- A CMD write after which ERR is 0 has executed its word without error. -/
theorem ranWithoutError_wrCmd (w : Word) (reply : Option Reply) :
    Handled.ranWithoutError w ⟨wrCmd w, reply, false⟩ = true := by
  simp [Handled.ranWithoutError, HostEvent.writesCmd, wrCmd, wr]

/-- A CMD write of another word than INIT's starts no job. -/
theorem startsJob_wrCmd {w : Word} (hw : w ≠ 0x01000000#32) : (wrCmd w).startsJob = false := by
  simp [HostEvent.startsJob, wrCmd, wr, hw]

/-- A step that runs `v` without error in a job that has run `w` leaves both in the job's record. -/
theorem ran_both_of_step {s t : State} {w v : Word} {es : List HostEvent} (hv : v ≠ 0x01000000#32)
    (hp : s.pending = wrCmd v :: es) (hran : s.jobHistory.any (Handled.ranWithoutError w) = true)
    (hs : step s = .next t) (ht : t.err = false) :
    t.jobHistory.any (Handled.ranWithoutError w) = true ∧ t.jobHistory.any (Handled.ranWithoutError v) = true := by
  obtain ⟨reply, hhist⟩ := jobHistory_of_step hp (startsJob_wrCmd hv) hs
  rw [hhist, ht]
  simp [List.any_append, hran, ranWithoutError_wrCmd]

/-- A complete job stays complete over an event that starts no other: the record of the job only grows. -/
theorem encodeComplete_of_step {s t : State} {e : HostEvent} {es : List HostEvent} (hc : s.encodeComplete = true)
    (hp : s.pending = e :: es) (he : e.startsJob = false) (hs : step s = .next t) : t.encodeComplete = true := by
  obtain ⟨reply, hhist⟩ := jobHistory_of_step hp he hs
  obtain ⟨hflush, hcreate⟩ := s.encodeComplete_iff.mp hc
  simp [State.encodeComplete_iff, hhist, List.any_append, hflush, hcreate]

/-- Settles O56: the second of the two commands joins the first in the job's record, which only grows until the next
job; a failure is the result whatever the record. -/
theorem encodeCompletionOutlivesLaterErrors : Obligations.EncodeCompletionOutlivesLaterErrors := by
  refine ⟨fun s t w v hwords hpending hran hs ht => ?_, fun s t e es => encodeComplete_of_step,
    fun s herr => if_pos herr⟩
  obtain ⟨es, hp⟩ := hpending
  rw [State.encodeComplete_iff]
  obtain ⟨rfl, rfl⟩ | ⟨rfl, rfl⟩ := hwords
  · exact ran_both_of_step (by decide) hp hran hs ht
  · exact (ran_both_of_step (by decide) hp hran hs ht).symm

/-! ### The host's run of a job's commands (70_reset_and_hazards.md R117, R118) -/

/-- Two runs, one after the other. -/
theorem run_append {es fs : List HostEvent} {s t u : State} (hes : Host.Core.run core es.length s = .next t)
    (hfs : Host.Core.run core fs.length t = .next u) : Host.Core.run core (es ++ fs).length s = .next u := by
  induction es generalizing s with
  | nil => exact Host.Outcome.next.inj hes ▸ hfs
  | cons e es ih =>
    obtain ⟨m, hm⟩ := step_total s
    rw [List.length_cons, run_succ_of_step hm] at hes
    rw [List.cons_append, List.length_cons, run_succ_of_step hm]
    exact ih hes

/-- A step on the write of a command does to the block what the command does, and records the write's completion. -/
theorem step_commandEvent {i : Instr} {s t : State} {es : List HostEvent} (hp : s.pending = commandEvent i :: es)
    (he : exec i s = .next t) :
    ∃ v, step s = .next v ∧ v.pending = es ∧ v = t.withHostOf v ∧
      v.history = ⟨commandEvent i, some .ok, t.err⟩ :: s.history := by
  have hexec : exec i (s.setPending es) = .next (t.withHostOf (s.setPending es)) :=
    exec_withHostOf (s.setPending es) he
  refine ⟨(t.withHostOf (s.setPending es)).record (commandEvent i) (some .ok), ?_, rfl, rfl, rfl⟩
  rw [step_wrCmd_of_decode hp (decodeEncode i), hexec]
  rfl

/-- Commands do to a state with the same block what they do to the block. -/
theorem execAll_of_same_block {is : List Instr} {s t v : State} (hv : v = s.withHostOf v)
    (h : execAll is s = .next t) : execAll is v = .next (t.withHostOf v) := by
  have hrun := execAll_withHostOf v h
  rwa [← hv] at hrun

/-- Only INIT's write starts a job. -/
theorem startsJob_commandEvent {i : Instr} (hi : i ≠ .init) : (commandEvent i).startsJob = false := by
  refine startsJob_wrCmd fun hw => hi ?_
  have hinit : decode (encode i) = .ok .init := decode_eq_ok_iff_eq_encode.mpr hw
  exact Except.ok.inj ((decodeEncode i).symm.trans hinit)

/-- The record of a command's write after which ERR is 0. -/
def Handled.clean (i : Instr) : Handled := ⟨commandEvent i, some .ok, false⟩

theorem ranWithoutError_clean (i : Instr) : (Handled.clean i).ranWithoutError (encode i) = true :=
  ranWithoutError_wrCmd (encode i) (some .ok)

theorem doutValue_clean (i : Instr) : doutValue (.clean i) = none := rfl

theorem filterMap_doutValue_clean (is : List Instr) : (is.map Handled.clean).filterMap doutValue = [] := by
  simp [doutValue_clean]

/-- The run on the writes of commands without INIT that end with ERR = 0 does to the block what the commands do, and
adds a clean record of each to the job's. -/
theorem run_commands {is : List Instr} (his : ∀ i ∈ is, i ≠ .init) {s t : State} {rest : List HostEvent}
    (hp : s.pending = is.map commandEvent ++ rest) (he : execAll is s = .next t) (ht : t.err = false) :
    ∃ u, Host.Core.run core (is.map commandEvent).length s = .next u ∧ u.pending = rest ∧ u = t.withHostOf u ∧
      u.jobHistory = s.jobHistory ++ is.map .clean := by
  induction is generalizing s t with
  | nil => exact ⟨s, rfl, hp, congrArg (State.withHostOf · s) (Host.Outcome.next.inj he), by simp⟩
  | cons i is ih =>
    obtain ⟨hi, his⟩ := List.forall_mem_cons.mp his
    obtain ⟨m, hm⟩ := exec_total i s
    simp only [execAll, hm] at he
    obtain ⟨v, hstep, hpend, hv, hhist⟩ := step_commandEvent hp hm
    rw [err_of_execAll his he ht] at hhist
    have hjobv := State.jobHistory_of_cons hhist (startsJob_commandEvent hi)
    obtain ⟨u, hrun, hrest, hu, hjob⟩ := ih his hpend (execAll_of_same_block hv he) ht
    refine ⟨u, (run_succ_of_step hstep _).trans hrun, hrest, hu, ?_⟩
    rw [hjob, hjobv, List.append_assoc]
    rfl

/-- The run on INIT's write and those of a job's commands that end with ERR = 0: the job's record is one clean record
of each command after INIT. -/
theorem run_job {is : List Instr} (his : ∀ i ∈ is, i ≠ .init) {s t : State} {rest : List HostEvent}
    (hp : s.pending = (.init :: is).map commandEvent ++ rest) (he : execAll (.init :: is) s = .next t)
    (ht : t.err = false) :
    ∃ u, Host.Core.run core ((.init :: is).map commandEvent).length s = .next u ∧ u.pending = rest ∧
      u = t.withHostOf u ∧ u.jobHistory = is.map .clean := by
  obtain ⟨v, hstep, hpend, hv, hhist⟩ := step_commandEvent (i := .init) (t := s.startJob) hp rfl
  have hjobv : v.jobHistory = [] := State.jobHistory_of_start hhist rfl
  obtain ⟨u, hrun, hrest, hu, hjob⟩ := run_commands his hpend (execAll_of_same_block hv he) ht
  exact ⟨u, (run_succ_of_step hstep _).trans hrun, hrest, hu, by rw [hjob, hjobv, List.nil_append]⟩

/-! ### The host's reads after the commands (70_reset_and_hazards.md R117, R118, 43_host_access.md R92) -/

/-- No two registers share an offset (R21). -/
theorem Reg.offset_injective {r q : Reg} (h : r.offset = q.offset) : r = q :=
  Option.some.inj ((registerAt_offset r).symm.trans (registerAt_eq_some_iff.mpr h))

/-- A read of another register than DOUT gives no value of the job. -/
theorem doutValue_rd_of_ne_dout {r : Reg} (hr : r ≠ .dout) (v : Word) (err : Bool) :
    doutValue ⟨rd r.offset, some (.data v), err⟩ = none := by
  have hoff : (r.offset : Int) ≠ 0x10 := fun h => hr (Reg.offset_injective (q := .dout) (by exact_mod_cast h))
  simp [doutValue, rd, hoff]

/-- A read of DOUT gives the head of the queue, if there is one. -/
theorem doutValue_rd_dout (q : List Sym) (err : Bool) :
    doutValue ⟨rd 0x10, some (.data (doutWord q)), err⟩ = q.head? := by
  cases q with
  | nil => rfl
  | cons w ws =>
    have hvalid : (doutWord (w :: ws)).getLsbD 31 = true := by simp [doutWord]
    have hhead : field (doutWord (w :: ws)) 0 5 = w := by
      ext i hi
      interval_cases i <;> simp [doutWord]
    simp [doutValue, rd, hvalid, hhead]

/-- The value a read gives and the queue it leaves are the queue before the read: no value of the job is lost. -/
theorem doutValue_append_afterRead (r : Reg) (s : State) (err : Bool) :
    [⟨rd r.offset, some (.data (readValue r s)), err⟩].filterMap doutValue ++ (afterRead r s).outq = s.outq := by
  by_cases hr : r = .dout
  · subst hr
    have hvalue : doutValue ⟨rd (Reg.offset .dout), some (.data (readValue .dout s)), err⟩ = s.outq.head? :=
      doutValue_rd_dout s.outq err
    rw [List.filterMap_cons, hvalue]
    cases hq : s.outq <;> simp [afterRead, hq]
  · simp [doutValue_rd_of_ne_dout hr, afterRead_of_ne_dout s hr]

/-- A read of a register touches neither ERR nor ECODE. -/
theorem afterRead_keeps_errors (r : Reg) (s : State) :
    (afterRead r s).err = s.err ∧ (afterRead r s).ecode = s.ecode := by
  cases r <;> exact ⟨rfl, rfl⟩

theorem startsJob_rd (off : Nat) : (rd off).startsJob = false := by
  simp [rd, HostEvent.startsJob]

/-- What a read of a register does, with its answer recorded, leaves the job's result as it is. -/
theorem jobResult_of_rd {r : Reg} {s t : State}
    (ht : t = (afterRead r s).record (rd r.offset) (some (.data (readValue r s)))) : t.jobResult = s.jobResult := by
  obtain ⟨herr, hcode⟩ := afterRead_keeps_errors r s
  obtain ⟨-, hhist⟩ := afterRead_keeps_host r s
  have hjob : t.jobHistory = s.jobHistory ++ [⟨rd r.offset, some (.data (readValue r s)), s.err⟩] :=
    State.jobHistory_of_cons (by rw [ht, State.record_history, herr, hhist]) (startsJob_rd _)
  have hwords : t.jobWords = s.jobWords := by
    rw [State.jobWords, hjob, List.filterMap_append, List.append_assoc, ht, State.record_outq,
      doutValue_append_afterRead, State.jobWords]
  rw [State.jobResult, hwords, ht, State.record_err, State.record_ecode, herr, hcode, State.jobResult]

/-- A step on a read of a register leaves the job's result as it is, and a complete job complete. -/
theorem step_rd_keeps_job {r : Reg} {s : State} {es : List HostEvent} (hp : s.pending = rd r.offset :: es) :
    ∃ t, step s = .next t ∧ t.pending = es ∧ t.jobResult = s.jobResult ∧
      (s.encodeComplete = true → t.encodeComplete = true) := by
  obtain ⟨hpend, -⟩ := afterRead_keeps_host r (s.setPending es)
  have hstep := step_rd hp
  exact ⟨_, hstep, hpend, jobResult_of_rd (s := s.setPending es) (by rw [readValue_setPending]),
    fun hc => encodeComplete_of_step hc hp (startsJob_rd _) hstep⟩

/-- The run on reads of registers leaves the job's result as it is, and a complete job complete. -/
theorem run_reads {rs : List Reg} {s : State} {rest : List HostEvent}
    (hp : s.pending = (rs.map fun r => rd r.offset) ++ rest) :
    ∃ t, Host.Core.run core (rs.map fun r => rd r.offset).length s = .next t ∧ t.pending = rest ∧
      t.jobResult = s.jobResult ∧ (s.encodeComplete = true → t.encodeComplete = true) := by
  induction rs generalizing s with
  | nil => exact ⟨s, rfl, hp, rfl, id⟩
  | cons r rs ih =>
    obtain ⟨u, hstep, hpend, hresult, hcomplete⟩ := step_rd_keeps_job hp
    obtain ⟨t, hrun, hrest, hresult', hcomplete'⟩ := ih hpend
    exact ⟨t, (run_succ_of_step hstep _).trans hrun, hrest, hresult'.trans hresult, hcomplete' ∘ hcomplete⟩

/-! ### The canonical job (70_reset_and_hazards.md R117, R118) -/

/-- A job of clean records only has its words in OUTQ. -/
theorem jobResult_of_clean {s : State} {is : List Instr} (herr : s.err = false)
    (hjob : s.jobHistory = is.map .clean) : s.jobResult = .words s.outq := by
  rw [State.jobResult, herr, State.jobWords, hjob, filterMap_doutValue_clean]
  rfl

/-- A job with a clean record of CVT_FLUSH and one of CHK_CREATE is complete. -/
theorem encodeComplete_of_clean {s : State} {is : List Instr} (hflush : .cvtFlush ∈ is) (hcreate : .chkCreate ∈ is)
    (hjob : s.jobHistory = is.map .clean) : s.encodeComplete = true := by
  rw [State.encodeComplete_iff, hjob]
  exact ⟨List.any_eq_true.mpr ⟨_, List.mem_map_of_mem hflush, ranWithoutError_clean .cvtFlush⟩,
    List.any_eq_true.mpr ⟨_, List.mem_map_of_mem hcreate, ranWithoutError_clean .chkCreate⟩⟩

/-- The encode job's commands after INIT. -/
def encodeTail (hrp bs : List Octet) : List Instr :=
  hrpCommands hrp ++ pushCommands bs ++ [Instr.cvtFlush, Instr.chkCreate]

theorem encodeCommands_eq (hrp bs : List Octet) : encodeCommands hrp bs = .init :: encodeTail hrp bs := rfl

theorem encodeTail_ne_init (hrp bs : List Octet) : ∀ i ∈ encodeTail hrp bs, i ≠ .init := by
  rintro _ hi rfl
  simp [encodeTail, hrpCommands, pushCommands] at hi

/-- The registers the host reads after the job's commands: STATUS, then DOUT for each word (R117). -/
def encodeReads (bs : List Octet) : List Reg :=
  .status :: List.replicate (wordCount bs.length + Config.nDigits) .dout

theorem canonicalJob_eq (hrp bs : List Octet) : canonicalJob hrp bs =
    wr 0x04 3#32 :: ((encodeCommands hrp bs).map commandEvent ++ (encodeReads bs).map fun r => rd r.offset) := by
  simp [canonicalJob, encodeReads, Reg.offset]

/-- Settles O54: the CTRL write gives PAD = CHAIN = 1, the commands then run as in O53, and the reads keep the job's
result and its completeness. -/
theorem canonicalJobResultIsTheEncoding : Obligations.CanonicalJobResultIsTheEncoding := by
  intro s hrp bs rest hfit hp
  rw [canonicalJob_eq, encodeCommands_eq] at hp ⊢
  rw [List.cons_append, List.append_assoc] at hp
  obtain ⟨c, hctrl, hpendc, hpad, hchain⟩ : ∃ c, step s = .next c ∧
      c.pending =
        (.init :: encodeTail hrp bs).map commandEvent ++ (((encodeReads bs).map fun r => rd r.offset) ++ rest) ∧
      c.pad = true ∧ c.chain = true := ⟨_, step_wr_ctrl hp, rfl, rfl, rfl⟩
  obtain ⟨t, ht, herr, -, hq⟩ := encodeCommandsQueueTheEncoding c hrp bs hpad hchain hfit
  rw [encodeCommands_eq] at ht
  obtain ⟨u, hrun, hpendu, hu, hjob⟩ := run_job (encodeTail_ne_init hrp bs) hpendc ht herr
  obtain ⟨r, hreads, hrest, hresult, hcomplete⟩ := run_reads hpendu
  have herru : u.err = false := by rw [hu]; exact herr
  have hqu : u.outq = t.outq := by rw [hu]; rfl
  refine ⟨r, (run_succ_of_step hctrl _).trans (run_append hrun hreads), hrest, hcomplete ?_, ?_⟩
  · exact encodeComplete_of_clean (by simp [encodeTail]) (by simp [encodeTail]) hjob
  · rw [hresult, jobResult_of_clean herru hjob, hqu, hq]

end Sys2Proof.Machine
